-- ==== Sys2Proof/Word.lean ====
section
/-! DEFINITION. The word types of the S-DES core and the plainest view of them.

A cipher bit vector of length n is a `BitVec n` whose vector index 0 is its MOST significant bit (00_scope.md R8);
the integer a register holds for it is `uint` (R9, R10), so a register and the vector it holds are one value. -/

namespace Sys2Proof

/-- An 8-bit block, also a round key and the IV (00_scope.md R6). -/
abbrev Block := BitVec 8

/-- A 10-bit cipher key (00_scope.md R6). -/
abbrev Key := BitVec 10

/-- A 4-bit Feistel half (00_scope.md R6, HALF_W). -/
abbrev Half := BitVec 4

/-- A command word, the low 8 bits of a host write to CMD (30_encoding.md R70). -/
abbrev CmdWord := BitVec 8

/-- The host bus data (00_scope.md R7, DATA_W = 16). -/
abbrev HostWord := BitVec 16

/-- The host bus address (00_scope.md R7, ADDR_W = 12). -/
abbrev HostAddr := BitVec 12

/-- `uint(v)` of 00_scope.md R9. -/
abbrev uint {n : Nat} (v : BitVec n) : Nat := v.toNat

/-- `bv_10(k)` of 00_scope.md R9: the candidate key that the integer `k` stands for (20_memory.md R55). -/
abbrev keyOf (k : Nat) : Key := BitVec.ofNat 10 k

end Sys2Proof
end

