-- ==== Sys2Proof/Syntax.lean ====
section
/-! DEFINITION. The instruction set: the ten commands of 30_encoding.md R72, one constructor per row of
spec/opcode_table.json. -/

namespace Sys2Proof

/-- A command. The only operand a command word carries is KSCHED's selector field SEL (30_encoding.md R71); which
of its four values are legal is `Instr.wf`. Every other operand is implicit. -/
inductive Instr where
  | nop
  | enc1
  | dec1
  | enc2
  | dec2
  | ksched (sel : BitVec 2)
  | mitm
  | brute
  | cbcd
  | clr
  deriving DecidableEq, Repr

end Sys2Proof
end

