-- ==== Sys2Proof/WellFormed.lean ====
section
/-! DEFINITION. Which commands are well formed. -/

namespace Sys2Proof

/-- "Only selectors 1 and 2 are valid" (30_encoding.md R71, 41_key_schedule.md R101). -/
def selectorLegal (sel : BitVec 2) : Bool := sel == 1#2 || sel == 2#2

/-- A command is well formed unless it is KSCHED with a selector other than 1 or 2; such a word is decoded and then
rejected with BAD_SELECTOR (60_exceptions.md R183). -/
def Instr.wf : Instr → Bool
  | .ksched sel => selectorLegal sel
  | .nop | .enc1 | .dec1 | .enc2 | .dec2 | .mitm | .brute | .cbcd | .clr => true

end Sys2Proof
end

