-- ==== Sys2Proof/Decode.lean ====
section
/-! DEFINITION. Decoding and encoding of command words (30_encoding.md R70 to R74). -/

namespace Sys2Proof

/-- Why a command word is no command: the three classes of 30_encoding.md R73 that answer ILLEGAL_CMD. (Its fourth
class, KSCHED with SEL 0 or 3, is decoded as KSCHED, whose meaning raises BAD_SELECTOR; log 16.) -/
inductive Reject where
  /-- OPC is 0xA to 0xF. -/
  | reservedOpcode
  /-- Bits 7:6 are not 00. -/
  | reservedBits
  /-- SEL is not 00 on a command that takes no operand. -/
  | strayOperand
  deriving DecidableEq, Repr

/-- The field SEL, bits 5:4 (30_encoding.md R70). -/
def selField (c : CmdWord) : BitVec 2 := c.extractLsb' 4 2

/-- The field OPC, bits 3:0 (30_encoding.md R70). -/
def opcField (c : CmdWord) : BitVec 4 := c.extractLsb' 0 4

/-- The field Z, bits 7:6 (30_encoding.md R70). -/
def zField (c : CmdWord) : BitVec 2 := c.extractLsb' 6 2

/-- One row of the opcode map: `c & mask = pattern` selects it (30_encoding.md R72). -/
structure OpcodeRow where
  pattern : CmdWord
  mask : CmdWord
  build : BitVec 2 → Instr

/-- The opcode map of 30_encoding.md R72. -/
def opcodeRows : List OpcodeRow :=
  [ ⟨0x00#8, 0xFF#8, fun _ => .nop⟩,
    ⟨0x01#8, 0xFF#8, fun _ => .enc1⟩,
    ⟨0x02#8, 0xFF#8, fun _ => .dec1⟩,
    ⟨0x03#8, 0xFF#8, fun _ => .enc2⟩,
    ⟨0x04#8, 0xFF#8, fun _ => .dec2⟩,
    ⟨0x05#8, 0xCF#8, fun sel => .ksched sel⟩,
    ⟨0x06#8, 0xFF#8, fun _ => .mitm⟩,
    ⟨0x07#8, 0xFF#8, fun _ => .brute⟩,
    ⟨0x08#8, 0xFF#8, fun _ => .cbcd⟩,
    ⟨0x09#8, 0xFF#8, fun _ => .clr⟩ ]

/-- Whether a word matches a row. -/
def OpcodeRow.selects (r : OpcodeRow) (c : CmdWord) : Bool := c &&& r.mask == r.pattern

/-- The class of 30_encoding.md R73 a word outside the map falls in. The classes overlap; the order among them
has no effect, since all three answer ILLEGAL_CMD. -/
def rejectClass (c : CmdWord) : Reject :=
  if zField c ≠ 0#2 then .reservedBits
  else if 0xA#4 ≤ opcField c then .reservedOpcode
  else .strayOperand

/-- Decoding, total on all 256 words (30_encoding.md R70, R72, R73). -/
def decode (c : CmdWord) : Except Reject Instr :=
  match opcodeRows.find? (fun r => r.selects c) with
  | some r => .ok (r.build (selField c))
  | none => .error (rejectClass c)

/-- A word put together from its three fields (30_encoding.md R70). -/
def cmdWord (sel : BitVec 2) (opc : BitVec 4) : CmdWord := (0#2 ++ sel) ++ opc

/-- The word of a command, from the columns OPC and SEL of 30_encoding.md R72. -/
def encode : Instr → CmdWord
  | .nop => cmdWord 0 0x0
  | .enc1 => cmdWord 0 0x1
  | .dec1 => cmdWord 0 0x2
  | .enc2 => cmdWord 0 0x3
  | .dec2 => cmdWord 0 0x4
  | .ksched sel => cmdWord sel 0x5
  | .mitm => cmdWord 0 0x6
  | .brute => cmdWord 0 0x7
  | .cbcd => cmdWord 0 0x8
  | .clr => cmdWord 0 0x9

/-- The command the decoder reads from a table word of `nbits` bits (all rows have 8; there is one command format,
30_encoding.md R70, R74). -/
def decodeTableWord (nbits w : Nat) : Option Instr :=
  match decode (BitVec.ofNat 8 (w % 2 ^ nbits)) with
  | .ok i => some i
  | .error _ => none

end Sys2Proof
end

