-- ==== Sys2Proof/Machine/Bits.lean ====
section
/-! DEFINITION. Bit-vector operations and the permutation network (40_bitvector_permutation.md). Concatenation and
xor are Lean's `++` and `^^^`: `a ++ b` puts `a` at the lower vector indices (R90), `^^^` joins equal widths only
(R92). -/

namespace Sys2Proof.Machine

/-- `v{i}`, the bit at vector index `i`, index 0 the most significant (00_scope.md R8). -/
def bit {n : Nat} (v : BitVec n) (i : Nat) : Bool := v.getMsbD i

/-- The vector of `m` bits whose bit at vector index `i` is `f i`. -/
def vecOf : (m : Nat) → (Nat → Bool) → BitVec m
  | 0, _ => 0#0
  | m + 1, f => (vecOf m f).concat (f m)

/-- `slice(v, a, m)`, the `m` bits from vector index `a` on (40_bitvector_permutation.md R90); the spec asks
`a + m ≤ len(v)`. -/
def slice {n : Nat} (v : BitVec n) (a m : Nat) : BitVec m := v.extractLsb' (n - a - m) m

/-- `rotl(v, k)`, circular left rotation (40_bitvector_permutation.md R93). -/
def rotl {n : Nat} (v : BitVec n) (k : Nat) : BitVec n := v.rotateLeft k

/-- `perm(T, v)` for a table of `m` entries: output bit `i` is the input bit at the 1-indexed position `T[i]`
(40_bitvector_permutation.md R96). An entry outside 1..len(v) is a contract violation that R96 excludes by
WF(TABLES); no command evaluates `perm` on such a table (`runCommand`, log 10). -/
def perm {n : Nat} (m : Nat) (T : List Nat) (v : BitVec n) : BitVec m :=
  vecOf m (fun i => bit v (T.getD i 0 - 1))

end Sys2Proof.Machine
end

