-- ==== Sys2Proof/Config.lean ====
section
/-! DEFINITION. What is fixed for the machine (00_scope.md R6, R7) and the values the spec leaves free. -/

namespace Sys2Proof

/-- The four block memories of 20_memory.md R50; CTBUF and PTBUF are on the host's map, FWD and BWD are hidden. -/
inductive Space where
  | ctbuf
  | ptbuf
  | fwd
  | bwd
  deriving DecidableEq, Repr

/-- TABLES, the nine constants of 10_state.md R36, as raw data: selection tables are lists of 1-indexed source
positions, an S-box is its list of rows. Shapes and ranges are checked by `Tables.wf`. -/
structure Tables where
  pc1C : List Nat
  pc1D : List Nat
  pc2 : List Nat
  ip : List Nat
  ipInv : List Nat
  ep : List Nat
  p4 : List Nat
  s1 : List (List Nat)
  s2 : List (List Nat)
  deriving DecidableEq, Repr

namespace Config

/-- NKEYS, the cipher keys enumerated by each key counter (00_scope.md R6). -/
abbrev nKeys : Nat := 1024

/-- CBC_BUF_BLOCKS, the capacity of CTBUF and of PTBUF (00_scope.md R7). -/
abbrev cbcBufBlocks : Nat := 256

/-- The number of blocks of a memory (20_memory.md R50). -/
def spaceSize : Space → Nat
  | .ctbuf | .ptbuf => cbcBufBlocks
  | .fwd | .bwd => nKeys

/-- FREE VALUE. What a block that nothing has written since the last reset holds: any 8-bit value, fixed until
written (10_state.md R40, 93_implementation_defined.md U6). The first argument is the number of resets so far, so
that each reset leaves contents of its own. No body: nothing can be proved about its value (log 4). -/
opaque unwrittenBlock : Nat → Space → Nat → Block

/-- FREE VALUE. Whether a host read of a PTBUF block that the running CBCD will write sees the new value; "which
one is not defined" (20_memory.md R59 (e), 93_implementation_defined.md U7). The argument numbers the host's
reads. No body (log 6). -/
opaque readSeesNew : Nat → Bool

end Config

end Sys2Proof
end

