-- ==== Sys2Proof/Machine/Tables.lean ====
section
/-! DEFINITION. The well-formedness of TABLES (10_state.md R36) and the default table set STD
(93_implementation_defined.md G1). -/

namespace Sys2Proof

/-- A selection table of `len` entries over an input of `width` bits: every entry lies in 1..width (10_state.md
R36; 90_conflicts.md C1: nothing asks that every input position appear). -/
def selectionOk (len width : Nat) (T : List Nat) : Bool :=
  T.length == len && T.all (fun e => decide (1 ≤ e) && decide (e ≤ width))

/-- An S-box is 4 rows of 4 entries, each in 0..3 (10_state.md R36). -/
def sboxOk (B : List (List Nat)) : Bool :=
  B.length == 4 && B.all (fun row => row.length == 4 && row.all (fun e => decide (e ≤ 3)))

/-- `IP[IP_INV[i] - 1] = i + 1` for every zero-based position `i` in 0..7 (10_state.md R36). -/
def inversePair (ip ipInv : List Nat) : Bool :=
  (List.range 8).all (fun i => ip.getD (ipInv.getD i 0 - 1) 0 == i + 1)

/-- WF(TABLES), 10_state.md R36. That IP is a bijection follows from its range and `inversePair`. -/
def Tables.wf (t : Tables) : Bool :=
  selectionOk 5 10 t.pc1C && selectionOk 5 10 t.pc1D && selectionOk 8 10 t.pc2 &&
  selectionOk 8 8 t.ip && selectionOk 8 8 t.ipInv && selectionOk 8 4 t.ep && selectionOk 4 4 t.p4 &&
  sboxOk t.s1 && sboxOk t.s2 && inversePair t.ip t.ipInv

/-- STD. PRESUMED: the textbook tables, from general knowledge, no entry of them is in the source
(93_implementation_defined.md G1, 91_not_in_source.md N2; log 1). -/
def stdTables : Tables where
  pc1C := [3, 5, 2, 7, 4]
  pc1D := [10, 1, 9, 8, 6]
  pc2 := [6, 3, 7, 4, 8, 5, 10, 9]
  ip := [2, 6, 3, 1, 4, 8, 5, 7]
  ipInv := [4, 1, 3, 5, 7, 2, 8, 6]
  ep := [4, 1, 2, 3, 2, 3, 4, 1]
  p4 := [2, 4, 3, 1]
  s1 := [[1, 0, 3, 2], [3, 2, 1, 0], [0, 2, 1, 3], [3, 1, 3, 2]]
  s2 := [[0, 1, 2, 3], [2, 0, 1, 3], [3, 0, 1, 0], [2, 1, 0, 3]]

end Sys2Proof
end

