-- ==== Sys2Proof/Machine/Cipher.lean ====
section
/-! DEFINITION. The cipher functions: key schedule (41_key_schedule.md), S-boxes and round function
(42_sbox_round.md), block cipher (43_block_cipher.md), double cipher (44_double_cipher.md). All are pure functions of
TABLES and their arguments. -/

namespace Sys2Proof.Machine

/-- A key-schedule selector: 1 or 2, and nothing else (41_key_schedule.md R101). -/
inductive Selector where
  | one
  | two
  deriving DecidableEq, Repr

/-- `ROT(s)`, the total left rotation of each half (41_key_schedule.md R100 step 2, R102). -/
def Selector.rotation : Selector → Nat
  | .one => 1
  | .two => 3

/-- The selector a SEL field names, none for 0 and 3 (30_encoding.md R71). -/
def Selector.ofField (sel : BitVec 2) : Option Selector :=
  if sel = 1#2 then some .one else if sel = 2#2 then some .two else none

/-- `KS(k, s)` (41_key_schedule.md R100). -/
def keySchedule (t : Tables) (k : Key) (s : Selector) : Block :=
  let c := perm 5 t.pc1C k
  let d := perm 5 t.pc1D k
  let n := s.rotation
  perm 8 t.pc2 (rotl c n ++ rotl d n)

/-- `SBOX(B, x)`: the corner bits choose the row, the inner bits the column (42_sbox_round.md R110). -/
def sbox (B : List (List Nat)) (x : Half) : BitVec 2 :=
  let row := 2 * (bit x 0).toNat + (bit x 3).toNat
  let col := 2 * (bit x 1).toNat + (bit x 2).toNat
  BitVec.ofNat 2 ((B.getD row []).getD col 0)

/-- `F(h, rk)` (42_sbox_round.md R112). -/
def roundF (t : Tables) (h : Half) (rk : Block) : Half :=
  let e := perm 8 t.ep h
  let x := e ^^^ rk
  let xl := slice x 0 4
  let xr := slice x 4 4
  perm 4 t.p4 (sbox t.s1 xl ++ sbox t.s2 xr)

/-- The direction of `transform` (43_block_cipher.md R120). -/
inductive Direction where
  | encrypt
  | decrypt
  deriving DecidableEq, Repr

/-- `sel(dir)`, the selectors of the two rounds in order (43_block_cipher.md R120). -/
def Direction.selectors : Direction → List Selector
  | .encrypt => [.one, .two]
  | .decrypt => [.two, .one]

/-- One Feistel round on the halves (L, R) (43_block_cipher.md R121 step 3). -/
def feistelRound (t : Tables) (key : Key) (lr : Half × Half) (s : Selector) : Half × Half :=
  (lr.2, roundF t lr.2 (keySchedule t key s) ^^^ lr.1)

/-- `transform(block, key, dir)` (43_block_cipher.md R121); the final right half goes first into IP_INV. -/
def transform (t : Tables) (block : Block) (key : Key) (dir : Direction) : Block :=
  let p := perm 8 t.ip block
  let lr := dir.selectors.foldl (feistelRound t key) (slice p 0 4, slice p 4 4)
  perm 8 t.ipInv (lr.2 ++ lr.1)

/-- `E(b, k)` (43_block_cipher.md R121). -/
def cipherE (t : Tables) (b : Block) (k : Key) : Block := transform t b k .encrypt

/-- `D(b, k)` (43_block_cipher.md R121). -/
def cipherD (t : Tables) (b : Block) (k : Key) : Block := transform t b k .decrypt

/-- `E2(b, k1, k2)` (44_double_cipher.md R130). -/
def cipherE2 (t : Tables) (b : Block) (k1 k2 : Key) : Block := cipherE t (cipherE t b k1) k2

/-- `D2(b, k1, k2)` (44_double_cipher.md R131). -/
def cipherD2 (t : Tables) (b : Block) (k1 k2 : Key) : Block := cipherD t (cipherD t b k2) k1

end Sys2Proof.Machine
end

