-- ==== Sys2Proof/Machine/State.lean ====
section
/-! DEFINITION. The state of the S-DES core and of the host behind its port, and the state after reset. -/

namespace Sys2Proof.Machine

/-- Why a step stops. -/
inductive Fault where
  /-- Raised by a sequencer step of a cipher command in a state whose TABLES is not well formed: the contract
  violation of 60_exceptions.md R180, R187, which "should fail loudly". Safe: the reset self-check halts the core on
  such tables (R186), so no step after a reset comes here (log 10). -/
  | contractViolation
  deriving DecidableEq, Repr

/-- Why an instruction has no meaning. -/
inductive Refusal where
  /-- Raised by `exec` for an instruction without a meaning. Safe: the model stops where the core goes on. -/
  | notModelled (mnemonic : String)
  deriving DecidableEq, Repr

/-- The values of ERRCODE that can occur (10_state.md R30). -/
inductive ErrCode where
  | none
  | illegalCmd
  | badSelector
  | badLength
  | lengthRange
  | tableFault
  deriving DecidableEq, Repr

/-- The flags of STATUS (10_state.md R29). Bits 7:6 of the register are always 0 and hold nothing. -/
structure Status where
  busy : Bool
  done : Bool
  found : Bool
  err : Bool
  fault : Bool
  ovr : Bool
  deriving DecidableEq, Repr

/-- The number of a known pair, 1 to 5; pair 1 is the pivot (10_state.md R25). -/
inductive PairNo where
  | one
  | two
  | three
  | four
  | five
  deriving DecidableEq, Repr

/-- Five 8-bit registers: P1..P5 or C1..C5 (10_state.md R25). -/
structure PairFile where
  r1 : Block
  r2 : Block
  r3 : Block
  r4 : Block
  r5 : Block
  deriving DecidableEq, Repr

/-- The host-visible data registers (10_state.md R20), each the bit vector whose `uint` the register holds. CMD is
not stored (R28); STATUS and ERRCODE are fields of the state. -/
structure Regs where
  key1 : Key
  key2 : Key
  din : Block
  dout : Block
  rkey : Block
  iv : Block
  ctlen : BitVec 16
  fk1 : Key
  fk2 : Key
  p : PairFile
  c : PairFile
  deriving DecidableEq, Repr

/-- A register of the register space (10_state.md R20). -/
inductive Reg where
  | cmd
  | status
  | errcode
  | key1
  | key2
  | din
  | dout
  | rkey
  | iv
  | ctlen
  | fk1
  | fk2
  | p (n : PairNo)
  | c (n : PairNo)
  deriving DecidableEq, Repr

/-- The phases of a command episode (10_state.md R33). -/
inductive Phase where
  | exec
  | fillF
  | fillB
  | scan
  | blocks
  deriving DecidableEq, Repr

/-- The sequencer, which stands where other machines have a program counter (10_state.md R32, R33). -/
inductive Seq where
  | idle
  | run (op : Instr) (ph : Phase) (i j n : Nat)
  deriving DecidableEq, Repr

/-- The latched result of the command in execution (10_state.md R38), as wide as that result (log 9). -/
inductive Latch where
  | nothing
  | block (b : Block)
  | roundKey (rk : Block)
  | keyPair (found : Option (Key × Key))
  deriving DecidableEq, Repr

/-- A memory of 8-bit blocks: the blocks written since the last reset, by strictly rising index. An index that is
not listed has not been written; it reads as no value here, and as a free value through `State.blockAt` (log 4,
log 5). -/
abbrev Memory := List Host.Cell

/-- What comes to the core from outside: an access of the host (00_scope.md R5, 30_encoding.md R75), its
pseudo-access WAIT (R76), or the platform's reset (70_reset_and_hazards.md R210). -/
inductive Action where
  /-- `HostWrite(addr, data)`; a command is a write to CMD. -/
  | write (addr : HostAddr) (data : HostWord)
  /-- `HostRead(addr)`. -/
  | read (addr : HostAddr)
  /-- `HostWrite(addr, v)` with `v` the value the host read last (MOVKEYS, R76). -/
  | writeLast (addr : HostAddr)
  /-- `RD STATUS` repeated until BUSY reads 0 (R76). -/
  | wait
  /-- The platform applies reset. -/
  | reset
  deriving DecidableEq, Repr

/-- Who takes a step (00_scope.md R5). -/
inductive Agent where
  | core
  | host
  deriving DecidableEq, Repr

/-- The state. INVENTORY.md, section State, says for each field which rule names it. -/
structure State where
  /-- TABLES, the configuration; no step changes it (10_state.md R36). -/
  tables : Tables
  regs : Regs
  status : Status
  errcode : ErrCode
  seq : Seq
  ctbuf : Memory
  ptbuf : Memory
  fwd : Memory
  bwd : Memory
  /-- CHAIN (10_state.md R38, R39). -/
  chain : Block
  latch : Latch
  /-- The model's own: PTBUF as it stood when the running CBCD was accepted (log 6). -/
  ptOld : Memory
  /-- The model's own: the host actions still to come, in order (log 2). -/
  script : List Action
  /-- The model's own: who takes each of the next steps while a command runs; past its end, the core (log 2). -/
  schedule : List Agent
  /-- The model's own: the values the host's reads returned, the newest first (log 14). -/
  reads : List HostWord
  /-- The model's own: how many resets there have been (log 4). -/
  resets : Nat
  deriving DecidableEq, Repr

/-- Five registers at 0 (10_state.md R40). -/
def PairFile.zero : PairFile := ⟨0, 0, 0, 0, 0⟩

/-- Every data register at 0 (10_state.md R40). -/
def Regs.zero : Regs where
  key1 := 0
  key2 := 0
  din := 0
  dout := 0
  rkey := 0
  iv := 0
  ctlen := 0
  fk1 := 0
  fk2 := 0
  p := .zero
  c := .zero

/-- Every flag at 0 (10_state.md R40). -/
def Status.zero : Status := ⟨false, false, false, false, false, false⟩

/-- The values of 10_state.md R40 before the self-check, under a given TABLES. CHAIN and the latched result are
unspecified there; DESIGN CHOICE: 0 and nothing (log 3). -/
def State.cleared (t : Tables) : State where
  tables := t
  regs := .zero
  status := .zero
  errcode := .none
  seq := .idle
  ctbuf := []
  ptbuf := []
  fwd := []
  bwd := []
  chain := 0
  latch := .nothing
  ptOld := []
  script := []
  schedule := []
  reads := []
  resets := 0

/-- `raise Fault(TABLE_FAULT)`: the core is halted (60_exceptions.md R186). -/
def State.raiseTableFault (s : State) : State :=
  { s with status := { s.status with fault := true }, errcode := .tableFault }

/-- The state after reset under a given TABLES: the values of 10_state.md R40 and the self-check of
70_reset_and_hazards.md R211. -/
def State.resetWith (t : Tables) : State :=
  if t.wf then State.cleared t else (State.cleared t).raiseTableFault

/-- The state after reset. Its TABLES is STD, PRESUMED (log 1). -/
def State.reset : State := State.resetWith stdTables

end Sys2Proof.Machine
end

