-- ==== Sys2Proof/Machine/Flags.lean ====
section
/-! DEFINITION. Every way a flag of STATUS or a value of ERRCODE is set, cleared or read (10_state.md R29, R30). -/

namespace Sys2Proof.Machine

/-- STATUS as the host reads it: bits 0 to 5 BUSY, DONE, FOUND, ERR, FAULT, OVR, bits 7:6 zero (10_state.md R29). -/
def Status.word (f : Status) : BitVec 8 :=
  0#2 ++ BitVec.ofBool f.ovr ++ BitVec.ofBool f.fault ++ BitVec.ofBool f.err ++ BitVec.ofBool f.found ++
    BitVec.ofBool f.done ++ BitVec.ofBool f.busy

/-- The codes of ERRCODE (10_state.md R30, 60_exceptions.md R181). -/
def ErrCode.code : ErrCode → BitVec 4
  | .none => 0
  | .illegalCmd => 1
  | .badSelector => 2
  | .badLength => 3
  | .lengthRange => 4
  | .tableFault => 8

/-- A command episode opens: DONE, FOUND and ERR go to 0 (30_encoding.md R70). -/
def Status.opened (f : Status) : Status := { f with done := false, found := false, err := false }

/-- A command has passed its checks: BUSY goes to 1 (30_encoding.md R70). -/
def Status.started (f : Status) : Status := { f with busy := true }

/-- A command is rejected: ERR and DONE go to 1 (60_exceptions.md R184). -/
def Status.rejected (f : Status) : Status := { f with err := true, done := true }

/-- A command commits: BUSY goes to 0 and DONE to 1 (10_state.md R34); a search also writes FOUND (45_key_recovery.md
R148), any other command leaves it. -/
def Status.committed (f : Status) (search : Option Bool) : Status :=
  { f with busy := false, done := true, found := search.getD f.found }

/-- CLR: DONE, FOUND, ERR and OVR go to 0 (47_control.md R171). -/
def Status.acknowledged (f : Status) : Status :=
  { f with done := false, found := false, err := false, ovr := false }

/-- A host write while BUSY = 1 sets OVR (10_state.md R31 (d), 60_exceptions.md R189). -/
def Status.overrun (f : Status) : Status := { f with ovr := true }

end Sys2Proof.Machine
end

