-- ==== Sys2Proof/Machine/Operands.lean ====
section
/-! DEFINITION. The operands of commands and of host accesses: the pair registers, the block count, and the host
address map (10_state.md R20, R25; 20_memory.md R51; 46_cbc.md R161). -/

namespace Sys2Proof.Machine

/-- Register number `n` of a pair file (10_state.md R25). -/
def PairFile.get (f : PairFile) : PairNo → Block
  | .one => f.r1
  | .two => f.r2
  | .three => f.r3
  | .four => f.r4
  | .five => f.r5

/-- A pair file with register number `n` replaced (10_state.md R25). -/
def PairFile.set (f : PairFile) (n : PairNo) (b : Block) : PairFile :=
  match n with
  | .one => { f with r1 := b }
  | .two => { f with r2 := b }
  | .three => { f with r3 := b }
  | .four => { f with r4 := b }
  | .five => { f with r5 := b }

/-- The number n of a pair. -/
def PairNo.number : PairNo → Nat
  | .one => 1
  | .two => 2
  | .three => 3
  | .four => 4
  | .five => 5

/-- The five pairs in order. -/
def PairNo.all : List PairNo := [.one, .two, .three, .four, .five]

/-- The auxiliary pairs 2 to 5 (45_key_recovery.md R140). -/
def PairNo.auxiliary : List PairNo := [.two, .three, .four, .five]

/-- The address of a register (10_state.md R20). -/
def Reg.addr : Reg → HostAddr
  | .cmd => 0x000
  | .status => 0x001
  | .errcode => 0x002
  | .key1 => 0x004
  | .key2 => 0x005
  | .din => 0x006
  | .dout => 0x007
  | .rkey => 0x008
  | .iv => 0x009
  | .ctlen => 0x00A
  | .fk1 => 0x00B
  | .fk2 => 0x00C
  | .p n => BitVec.ofNat 12 (0x010 + n.number)
  | .c n => BitVec.ofNat 12 (0x018 + n.number)

/-- The 22 registers (10_state.md R20). -/
def Reg.all : List Reg :=
  [.cmd, .status, .errcode, .key1, .key2, .din, .dout, .rkey, .iv, .ctlen, .fk1, .fk2] ++
    PairNo.all.map .p ++ PairNo.all.map .c

/-- The width of a register in bits (10_state.md R20). -/
def Reg.width : Reg → Nat
  | .errcode => 4
  | .key1 | .key2 | .fk1 | .fk2 => 10
  | .ctlen => 16
  | .cmd | .status | .din | .dout | .rkey | .iv | .p _ | .c _ => 8

/-- What stands at a host address (20_memory.md R51). -/
inductive Target where
  | reg (r : Reg)
  | ctbuf (i : Nat)
  | ptbuf (i : Nat)
  | unmapped
  deriving DecidableEq, Repr

/-- The host address of CTBUF[0] (20_memory.md R51). -/
def ctbufBase : Nat := 0x400

/-- The host address of PTBUF[0] (20_memory.md R51). -/
def ptbufBase : Nat := 0x800

/-- The host address map (20_memory.md R51). -/
def target (a : HostAddr) : Target :=
  if ctbufBase ≤ a.toNat ∧ a.toNat < ctbufBase + Config.cbcBufBlocks then .ctbuf (a.toNat - ctbufBase)
  else if ptbufBase ≤ a.toNat ∧ a.toNat < ptbufBase + Config.cbcBufBlocks then .ptbuf (a.toNat - ptbufBase)
  else match Reg.all.find? (fun r => r.addr == a) with
    | some r => .reg r
    | none => .unmapped

/-- `N = CTLEN / 8`, the blocks of the ciphertext stream (46_cbc.md R160, R161). -/
def Regs.blockCount (r : Regs) : Nat := r.ctlen.toNat / 8

end Sys2Proof.Machine
end

