-- ==== Sys2Proof/Machine/Ops.lean ====
section
/-! DEFINITION. The shared operations: block memories, registers behind the host port, and the life of a command
(acceptance, rejection, execution, commit) with the raising of errors and the reset event. -/

namespace Sys2Proof.Machine

/-- How every operation of the core answers. -/
abbrev Result := Host.Outcome State Fault Refusal

/-! ### Block memories (20_memory.md R50, R57, R63) -/

/-- The block written at an index, none where nothing has been written since the last reset. -/
def Memory.read : Memory → Nat → Option Block
  | [], _ => none
  | (k, b) :: rest, a => if a = k then some b else Memory.read rest a

/-- The memory with one block written; indices stay strictly rising. -/
def Memory.write : Memory → Nat → Block → Memory
  | [], a, v => [(a, v)]
  | (k, b) :: rest, a, v =>
    if a < k then (a, v) :: (k, b) :: rest
    else if a = k then (a, v) :: rest
    else (k, b) :: Memory.write rest a v

/-- Indices rise strictly from `lo` and stay below `size`. -/
def Memory.wfFrom (size : Nat) : Nat → Memory → Bool
  | _, [] => true
  | lo, (k, _) :: rest => decide (lo ≤ k) && decide (k < size) && Memory.wfFrom size (k + 1) rest

/-- The canonical form of a memory of `size` blocks (log 5). -/
def Memory.wf (size : Nat) (m : Memory) : Bool := Memory.wfFrom size 0 m

/-- The memory of a space. -/
def State.mem (s : State) : Space → Memory
  | .ctbuf => s.ctbuf
  | .ptbuf => s.ptbuf
  | .fwd => s.fwd
  | .bwd => s.bwd

/-- The state with the memory of a space replaced. -/
def State.setMem (s : State) (sp : Space) (m : Memory) : State :=
  match sp with
  | .ctbuf => { s with ctbuf := m }
  | .ptbuf => { s with ptbuf := m }
  | .fwd => { s with fwd := m }
  | .bwd => { s with bwd := m }

/-- `MemRead(space, i, 1)` (00_scope.md section 6.3). A block that nothing has written since the last reset gives
its free value (10_state.md R40; log 4). -/
def State.blockAt (s : State) (sp : Space) (i : Nat) : Block :=
  (Memory.read (s.mem sp) i).getD (Config.unwrittenBlock s.resets sp i)

/-- `MemWrite(space, i, 1, b)` (00_scope.md section 6.3). -/
def State.storeBlock (s : State) (sp : Space) (i : Nat) (b : Block) : State :=
  s.setMem sp (Memory.write (s.mem sp) i b)

/-! ### Registers behind the host port (10_state.md R20, R31) -/

/-- The value of a register, zero-extended to the bus (10_state.md R31 (b)); CMD reads 0 (R28). -/
def State.readReg (s : State) : Reg → HostWord
  | .cmd => 0
  | .status => s.status.word.setWidth 16
  | .errcode => s.errcode.code.setWidth 16
  | .key1 => s.regs.key1.setWidth 16
  | .key2 => s.regs.key2.setWidth 16
  | .din => s.regs.din.setWidth 16
  | .dout => s.regs.dout.setWidth 16
  | .rkey => s.regs.rkey.setWidth 16
  | .iv => s.regs.iv.setWidth 16
  | .ctlen => s.regs.ctlen
  | .fk1 => s.regs.fk1.setWidth 16
  | .fk2 => s.regs.fk2.setWidth 16
  | .p n => (s.regs.p.get n).setWidth 16
  | .c n => (s.regs.c.get n).setWidth 16

/-- An accepted host write to a data register: the low bits are taken (10_state.md R31 (a)), a read-only register
ignores it (R31 (c)), and a write to KEY1 clears RKEY (R23). CMD stores nothing (R28). -/
def Regs.write (r : Regs) (reg : Reg) (v : HostWord) : Regs :=
  match reg with
  | .key1 => { r with key1 := v.setWidth 10, rkey := 0 }
  | .key2 => { r with key2 := v.setWidth 10 }
  | .din => { r with din := v.setWidth 8 }
  | .iv => { r with iv := v.setWidth 8 }
  | .ctlen => { r with ctlen := v }
  | .p n => { r with p := r.p.set n (v.setWidth 8) }
  | .c n => { r with c := r.c.set n (v.setWidth 8) }
  | .cmd | .status | .errcode | .dout | .rkey | .fk1 | .fk2 => r

/-- The state with a data register written. -/
def State.writeReg (s : State) (reg : Reg) (v : HostWord) : State := { s with regs := s.regs.write reg v }

/-! ### Acceptance, rejection and commit -/

/-- A host write while BUSY = 1: lost, OVR set (10_state.md R31 (d)). -/
def State.noteOverrun (s : State) : State := { s with status := s.status.overrun }

/-- The gate every host write passes, in the order of 60_exceptions.md R190: FAULT = 1 ignores it, BUSY = 1 loses it
and sets OVR, otherwise it acts (10_state.md R31 (d), (e)). -/
def State.gated (s : State) (act : State → Result) : Result :=
  if s.status.fault then .next s
  else if s.status.busy then .next s.noteOverrun
  else act s

/-- A new command episode opens: DONE, FOUND, ERR and ERRCODE are cleared (30_encoding.md R70). -/
def State.openEpisode (s : State) : State := { s with status := s.status.opened, errcode := .none }

/-- `raise Error(code)`, the one entry mechanism for errors: ERRCODE, ERR and DONE are written and nothing else
(60_exceptions.md R184). It saves nothing and goes nowhere; leaving the error state is `State.openEpisode` or
`State.acknowledge` (R192). -/
def State.raiseError (s : State) (e : ErrCode) : State :=
  { s with status := s.status.rejected, errcode := e }

/-- CLR's clearing of DONE, FOUND, ERR, OVR and ERRCODE (47_control.md R171). -/
def State.acknowledge (s : State) : State :=
  { s with status := s.status.acknowledged, errcode := .none }

/-- `STATUS.BUSY <- 1; SEQ <- RUN(op, first phase, 0, 0, 0)` (30_encoding.md R70, 10_state.md R34). -/
def State.startRun (s : State) (op : Instr) (ph : Phase) : State :=
  { s with status := s.status.started, seq := .run op ph 0 0 0 }

/-- The acceptance of a command: the episode opens, then the command's own check rejects it (a code) or lets it
start (30_encoding.md R70). -/
def State.accept (s : State) (check : ErrCode) (start : State → State) : State :=
  match check with
  | .none => start s.openEpisode
  | e => s.openEpisode.raiseError e

/-- The registers with a latched result written (the commit lines of R104, R123, R124, R133, R134, R148, R150). An
exhausted search writes 0 and 0 (10_state.md R26). -/
def Latch.intoRegs (l : Latch) (r : Regs) : Regs :=
  match l with
  | .nothing => r
  | .block b => { r with dout := b }
  | .roundKey rk => { r with rkey := rk }
  | .keyPair (some (k1, k2)) => { r with fk1 := k1, fk2 := k2 }
  | .keyPair none => { r with fk1 := 0, fk2 := 0 }

/-- What a latched result says of FOUND: a search writes it, no other command does. -/
def Latch.search : Latch → Option Bool
  | .keyPair found => some found.isSome
  | .nothing | .block _ | .roundKey _ => none

/-- The commit: results are written, SEQ <- IDLE, BUSY <- 0, DONE <- 1, all at once (10_state.md R34). -/
def State.commit (s : State) : State :=
  { s with
    regs := s.latch.intoRegs s.regs
    status := s.status.committed s.latch.search
    seq := .idle }

/-- The executing command latches its result and commits (10_state.md R34, R38). -/
def State.finish (s : State) (l : Latch) : State := ({ s with latch := l }).commit

/-- Whether command `i` is the one in execution. -/
def State.inProgress (s : State) (i : Instr) : Bool :=
  match s.seq with
  | .idle => false
  | .run op _ _ _ _ => decide (op = i)

/-- The meaning of a command that runs on the sequencer. While it is the command in execution, it takes its next
sequencer step (10_state.md R34), which needs a well-formed TABLES: on any other it fails loudly (60_exceptions.md
R180, R187; log 10). Otherwise the command is being issued: the write passes the gate and is accepted or rejected
(30_encoding.md R70; log 13). -/
def runCommand (i : Instr) (check : State → ErrCode) (start advance : State → State) (s : State) : Result :=
  if s.inProgress i then
    if s.tables.wf then .next (advance s) else .fault .contractViolation
  else s.gated (fun s => .next (s.accept (check s) start))

/-- A command with no check of its own. -/
def noCheck (_ : State) : ErrCode := .none

/-! ### The reset event (70_reset_and_hazards.md R210) -/

/-- The PTBUF blocks a running CBCD has already written: they keep what was written (70_reset_and_hazards.md R210). -/
def State.ptbufAfterReset (s : State) : Memory :=
  match s.seq with
  | .run .cbcd _ _ _ n => s.ptbuf.filter (fun cell => decide (cell.1 < n))
  | _ => []

/-- The platform applies reset: every piece of state takes its reset value, TABLES stays, the buffers' contents are
unspecified anew (10_state.md R40, 70_reset_and_hazards.md R210; log 15). The host keeps its script and what it has
read. -/
def State.applyReset (s : State) : State :=
  { State.resetWith s.tables with
    ptbuf := s.ptbufAfterReset
    script := s.script
    schedule := s.schedule
    reads := s.reads
    resets := s.resets + 1 }

end Sys2Proof.Machine
end

