-- ==== Sys2Proof/Machine/BlockCommands.lean ====
section
/-! DEFINITION. The single-phase commands: ENC1, DEC1 (43_block_cipher.md), ENC2, DEC2 (44_double_cipher.md), KSCHED
(41_key_schedule.md). Each has the one phase EXEC, whose one step is its commit (10_state.md R33, 70_reset_and_hazards.md
R218). -/

namespace Sys2Proof.Machine

/-- A command whose one sequencer step latches a result and commits. -/
def singlePhase (i : Instr) (result : State → Latch) (s : State) : Result :=
  runCommand i noCheck (fun s => s.startRun i .exec) (fun s => s.finish (result s)) s

/-- ENC1: `DOUT <- E(DIN, KEY1)` (43_block_cipher.md R123). -/
def execEnc1 (s : State) : Result :=
  singlePhase .enc1 (fun s => .block (cipherE s.tables s.regs.din s.regs.key1)) s

/-- DEC1: `DOUT <- D(DIN, KEY1)` (43_block_cipher.md R124). -/
def execDec1 (s : State) : Result :=
  singlePhase .dec1 (fun s => .block (cipherD s.tables s.regs.din s.regs.key1)) s

/-- ENC2: `DOUT <- E2(DIN, KEY1, KEY2)` (44_double_cipher.md R133). -/
def execEnc2 (s : State) : Result :=
  singlePhase .enc2 (fun s => .block (cipherE2 s.tables s.regs.din s.regs.key1 s.regs.key2)) s

/-- DEC2: `DOUT <- D2(DIN, KEY1, KEY2)` (44_double_cipher.md R134). -/
def execDec2 (s : State) : Result :=
  singlePhase .dec2 (fun s => .block (cipherD2 s.tables s.regs.din s.regs.key1 s.regs.key2)) s

/-- KSCHED s: `RKEY <- KS(KEY1, s)`; a selector other than 1 and 2 is rejected with BAD_SELECTOR at acceptance and
nothing else changes (41_key_schedule.md R104, 60_exceptions.md R183). -/
def execKsched (sel : BitVec 2) (s : State) : Result :=
  match Selector.ofField sel with
  | some q => singlePhase (.ksched sel) (fun s => .roundKey (keySchedule s.tables s.regs.key1 q)) s
  | none => s.gated (fun s => .next (s.accept .badSelector id))

end Sys2Proof.Machine
end

