-- ==== Sys2Proof/Machine/Cbc.lean ====
section
/-! DEFINITION. The CBC decryption loop and the command CBCD (46_cbc.md). -/

namespace Sys2Proof.Machine

/-- The length check at acceptance, BAD_LENGTH before LENGTH_RANGE (46_cbc.md R161, 60_exceptions.md R190). -/
def lengthCheck (s : State) : ErrCode :=
  if s.regs.ctlen.toNat % 8 ≠ 0 then .badLength
  else if 8 * Config.cbcBufBlocks < s.regs.ctlen.toNat then .lengthRange
  else .none

/-- The acceptance of CBCD: the loop starts with `prev = IV` in CHAIN (46_cbc.md R162, 10_state.md R38). The
model's own PTBUF snapshot is taken (log 6). -/
def startCbcd (s : State) : State :=
  { s.startRun .cbcd .blocks with chain := s.regs.iv, ptOld := s.ptbuf }

/-- One block of the loop: `PTBUF[n] <- D2(CTBUF[n], KEY1, KEY2) ^ prev`, then `prev = CTBUF[n]` (46_cbc.md R162). -/
def cbcBlock (n : Nat) (s : State) : State :=
  let ct := s.blockAt .ctbuf n
  let pt := cipherD2 s.tables ct s.regs.key1 s.regs.key2 ^^^ s.chain
  { s.storeBlock .ptbuf n pt with chain := ct }

/-- The next sequencer step of CBCD: one block; the step of the last block commits (46_cbc.md R162, R164,
10_state.md R34). An empty stream commits with no block (46_cbc.md R161; log 7). -/
def advanceCbcd (s : State) : State :=
  match s.seq with
  | .idle => s
  | .run _ _ i j n =>
    if n < s.regs.blockCount then
      if n + 1 < s.regs.blockCount then { cbcBlock n s with seq := .run .cbcd .blocks i j (n + 1) }
      else (cbcBlock n s).finish .nothing
    else s.finish .nothing

/-- CBCD (46_cbc.md R164). -/
def execCbcd (s : State) : Result := runCommand .cbcd lengthCheck startCbcd advanceCbcd s

/-- The plaintext block `n` of the stream now in CTBUF, under the keys and IV now in their registers (46_cbc.md
R162). -/
def plainBlock (s : State) (n : Nat) : Block :=
  cipherD2 s.tables (s.blockAt .ctbuf n) s.regs.key1 s.regs.key2 ^^^
    (if n = 0 then s.regs.iv else s.blockAt .ctbuf (n - 1))

/-- Whether a CBCD in execution will write or has written block `n` (20_memory.md R59 (e)). -/
def State.cbcWindow (s : State) (n : Nat) : Bool := s.inProgress .cbcd && decide (n < s.regs.blockCount)

/-- The PTBUF block a host read returns. Of a block that the running CBCD writes, the host sees the old or the new
value, "which one is not defined" (20_memory.md R59 (e)): the choice is free (log 6). -/
def State.ptbufSeen (s : State) (n : Nat) : Block :=
  if s.cbcWindow n then
    if Config.readSeesNew s.reads.length then plainBlock s n
    else (Memory.read s.ptOld n).getD (Config.unwrittenBlock s.resets .ptbuf n)
  else s.blockAt .ptbuf n

end Sys2Proof.Machine
end

