-- ==== Sys2Proof/Machine/Control.lean ====
section
/-! DEFINITION. The control commands NOP and CLR (47_control.md). They act at once and never run on the sequencer. -/

namespace Sys2Proof.Machine

/-- NOP: nothing; it opens no episode (47_control.md R170). -/
def execNop (s : State) : Result := s.gated (fun s => .next s)

/-- CLR (47_control.md R171). -/
def execClr (s : State) : Result := s.gated (fun s => .next s.acknowledge)

end Sys2Proof.Machine
end

