-- ==== Sys2Proof/Machine/KeyRecovery.lean ====
section
/-! DEFINITION. The key searches MITM and BRUTE (45_key_recovery.md). -/

namespace Sys2Proof.Machine

/-- `E2(p_n, bv_10(i), bv_10(j)) = c_n` for pair number `n`. -/
def pairAgrees (t : Tables) (r : Regs) (i j : Nat) (n : PairNo) : Bool :=
  cipherE2 t (r.p.get n) (keyOf i) (keyOf j) == r.c.get n

/-- `Ver(i, j)`, the cross-validation against the four auxiliary pairs (45_key_recovery.md R141). -/
def crossValidated (t : Tables) (r : Regs) (i j : Nat) : Bool :=
  PairNo.auxiliary.all (pairAgrees t r i j)

/-- Membership of `(i, j)` in the verified set `V`, for `i` and `j` below 1024 (45_key_recovery.md R142). -/
def verified (t : Tables) (r : Regs) (i j : Nat) : Bool :=
  pairAgrees t r i j .one && crossValidated t r i j

/-- The state with the sequencer moved to another place of command `op`. -/
def State.moveTo (s : State) (op : Instr) (ph : Phase) (i j n : Nat) : State :=
  { s with seq := .run op ph i j n }

/-- One step of SCAN at `(i, j)`, in the order of 45_key_recovery.md R147, R152: a hit commits Found, otherwise the
scan moves to `(i, j+1)`, at the end of a row to `(i+1, 0)`, and at `(1023, 1023)` commits NotFound. -/
def scanStep (op : Instr) (hit : State → Nat → Nat → Bool) (i j n : Nat) (s : State) : State :=
  if hit s i j then s.finish (.keyPair (some (keyOf i, keyOf j)))
  else if j + 1 < Config.nKeys then s.moveTo op .scan i (j + 1) n
  else if i + 1 < Config.nKeys then s.moveTo op .scan (i + 1) 0 n
  else s.finish (.keyPair none)

/-- One step of FILL_F: `FWD[i] <- E(p1, bv_10(i))`; at `i = 1024` FILL_B starts with `j = 0` (45_key_recovery.md
R143, R152). -/
def fillForward (i j n : Nat) (s : State) : State :=
  let s' := s.storeBlock .fwd i (cipherE s.tables (s.regs.p.get .one) (keyOf i))
  if i + 1 < Config.nKeys then s'.moveTo .mitm .fillF (i + 1) j n else s'.moveTo .mitm .fillB (i + 1) 0 n

/-- One step of FILL_B: `BWD[j] <- D(c1, bv_10(j))`; at `j = 1024` SCAN starts with `(0, 0)` (45_key_recovery.md
R144, R152). -/
def fillBackward (i j n : Nat) (s : State) : State :=
  let s' := s.storeBlock .bwd j (cipherD s.tables (s.regs.c.get .one) (keyOf j))
  if j + 1 < Config.nKeys then s'.moveTo .mitm .fillB i (j + 1) n else s'.moveTo .mitm .scan 0 0 n

/-- MITM's test of a pair: a candidate, `FWD[i] = BWD[j]`, that is cross-validated (45_key_recovery.md R145, R146,
R148). -/
def mitmHit (s : State) (i j : Nat) : Bool :=
  s.blockAt .fwd i == s.blockAt .bwd j && crossValidated s.tables s.regs i j

/-- BRUTE's test of a pair (45_key_recovery.md R149, R150). -/
def bruteHit (s : State) (i j : Nat) : Bool := verified s.tables s.regs i j

/-- The next sequencer step of MITM (45_key_recovery.md R148, R152). -/
def advanceMitm (s : State) : State :=
  match s.seq with
  | .idle => s
  | .run _ .fillF i j n => fillForward i j n s
  | .run _ .fillB i j n => fillBackward i j n s
  | .run _ _ i j n => scanStep .mitm mitmHit i j n s

/-- The next sequencer step of BRUTE, which has the phase SCAN only (45_key_recovery.md R150, R152). -/
def advanceBrute (s : State) : State :=
  match s.seq with
  | .idle => s
  | .run _ _ i j n => scanStep .brute bruteHit i j n s

/-- MITM (45_key_recovery.md R148). -/
def execMitm (s : State) : Result :=
  runCommand .mitm noCheck (fun s => s.startRun .mitm .fillF) advanceMitm s

/-- BRUTE (45_key_recovery.md R150). -/
def execBrute (s : State) : Result :=
  runCommand .brute noCheck (fun s => s.startRun .brute .scan) advanceBrute s

end Sys2Proof.Machine
end

