-- ==== Sys2Proof/Machine/Dispatch.lean ====
section
/-! DEFINITION. The dispatch of a command to its meaning, one arm per constructor of Instr. -/

namespace Sys2Proof.Machine

def exec (i : Instr) (s : State) : Host.Outcome State Fault Refusal :=
  match i with
  | .nop => Sys2Proof.Machine.execNop s
  | .enc1 => Sys2Proof.Machine.execEnc1 s
  | .dec1 => Sys2Proof.Machine.execDec1 s
  | .enc2 => Sys2Proof.Machine.execEnc2 s
  | .dec2 => Sys2Proof.Machine.execDec2 s
  | .ksched sel => Sys2Proof.Machine.execKsched sel s
  | .mitm => Sys2Proof.Machine.execMitm s
  | .brute => Sys2Proof.Machine.execBrute s
  | .cbcd => Sys2Proof.Machine.execCbcd s
  | .clr => Sys2Proof.Machine.execClr s

end Sys2Proof.Machine
end

