-- ==== Sys2Proof/Machine/BusPort.lean ====
section
/-! DEFINITION. The host port: what a host access does (10_state.md R31, 20_memory.md R51, R52, R58), and the turns
of the two agents. -/

namespace Sys2Proof.Machine

/-- What a command word written to CMD does once the write has passed the gate: it is decoded at once; a word that
is no command opens an episode and raises ILLEGAL_CMD (30_encoding.md R70, R73, 60_exceptions.md R182). -/
def issueWord (c : CmdWord) (s : State) : Result :=
  match decode c with
  | .ok i => exec i s
  | .error _ => .next (s.accept .illegalCmd id)

/-- `HostWrite(a, v)`: FAULT ignores it, BUSY loses it and sets OVR (10_state.md R31 (d), (e)); a write to CMD issues
a command; other registers and CTBUF take it as `State.writeReg` and `State.storeBlock` say; PTBUF, read-only and
unmapped addresses ignore it (R31 (c), 20_memory.md R52). -/
def hostWrite (a : HostAddr) (v : HostWord) (s : State) : Result :=
  s.gated fun s =>
    match target a with
    | .reg .cmd => issueWord (v.setWidth 8) s
    | .reg r => .next (s.writeReg r v)
    | .ctbuf i => .next (s.storeBlock .ctbuf i (v.setWidth 8))
    | .ptbuf _ => .next s
    | .unmapped => .next s

/-- `HostRead(a)`: always allowed (10_state.md R31 (b), (f)); an unmapped address reads 0 (20_memory.md R52). -/
def hostRead (a : HostAddr) (s : State) : HostWord :=
  match target a with
  | .reg r => s.readReg r
  | .ctbuf i => (s.blockAt .ctbuf i).setWidth 16
  | .ptbuf i => (s.ptbufSeen i).setWidth 16
  | .unmapped => 0

/-- The host makes a read and keeps the value (30_encoding.md R75). -/
def State.recordRead (s : State) (a : HostAddr) : State := { s with reads := hostRead a s :: s.reads }

/-- The state with the rest of the script still to come. -/
def State.withScript (s : State) (rest : List Action) : State := { s with script := rest }

/-- The host's turn: the next action of the script, in order (20_memory.md R59 (a)). With no action left the core
waits (60_exceptions.md R197). WAIT reads STATUS and stays in the script while BUSY = 1 (30_encoding.md R76). A
write of the last value read, with nothing read, is an ill-formed script line and no access is made (log 14). -/
def hostTurn (s : State) : Result :=
  match s.script with
  | [] => .next s
  | .write a v :: rest => hostWrite a v (s.withScript rest)
  | .read a :: rest => .next ((s.recordRead a).withScript rest)
  | .writeLast a :: rest =>
    match s.reads with
    | [] => .next (s.withScript rest)
    | v :: _ => hostWrite a v (s.withScript rest)
  | .wait :: rest =>
    .next ((s.recordRead Reg.status.addr).withScript (if s.status.busy then .wait :: rest else rest))
  | .reset :: rest => .next (s.applyReset.withScript rest)

/-- The core's turn: the command in execution takes its next sequencer step (10_state.md R34). -/
def coreTurn (s : State) : Result :=
  match s.seq with
  | .idle => .next s
  | .run op _ _ _ _ => exec op s

/-- Whether a command episode is in progress. -/
def Seq.running : Seq → Bool
  | .idle => false
  | .run _ _ _ _ _ => true

/-- Who moves next. An idle or halted core does not move (60_exceptions.md R186, R197; log 17). While a command runs, the
schedule says who moves; past its end, and where the host has nothing left to do, the core does (70_reset_and_hazards.md
R218, R219; log 2). -/
def nextMover (s : State) : Agent :=
  if !s.seq.running || s.status.fault then .host
  else match s.schedule with
    | .host :: _ => if s.script.isEmpty then .core else .host
    | _ => .core

/-- A step taken while a command runs uses up one entry of the schedule. -/
def State.takeTurn (s : State) : State :=
  if s.seq.running then { s with schedule := s.schedule.tail } else s

end Sys2Proof.Machine
end

