-- ==== Sys2Proof/Machine/Step.lean ====
section
/-! DEFINITION. One step of the machine, and where its next instruction is put. -/

namespace Sys2Proof.Machine

/-- One step: the agent whose turn it is acts (00_scope.md R5; log 19). -/
def step (s : State) : Host.Outcome State Fault Refusal :=
  match nextMover s with
  | .host => hostTurn s.takeTurn
  | .core => coreTurn s.takeTurn

/-- The state whose very next step is the host's write of command word `w` to CMD: this machine fetches nothing, a
command comes from a host write (10_state.md R32, 30_encoding.md R70; log 11). While a command runs the schedule also
gives the host the next turn; the write is then lost, as 10_state.md R31 (d) says. -/
def State.withFetchWord (s : State) (nbits w : Nat) : State :=
  { s with
    script := .write Reg.cmd.addr (BitVec.ofNat 16 (w % 2 ^ nbits)) :: s.script
    schedule := if s.seq.running then .host :: s.schedule else s.schedule }

end Sys2Proof.Machine
end

