-- ==== Sys2Proof/Machine/Script.lean ====
section
/-! DEFINITION. Host scripts: literals, lines, pseudo-instructions and their encoding as host actions
(30_encoding.md R75, R76; 20_memory.md R54). -/

namespace Sys2Proof.Machine

/-- A literal: `b` and binary digits, `0x` and hexadecimal digits, or a decimal number (30_encoding.md R75). -/
inductive Literal where
  | bin (digits : List Bool)
  | hex (digits : List (Fin 16))
  | dec (n : Nat)
  deriving DecidableEq, Repr

/-- The unsigned integer a literal denotes, its leftmost digit the most significant (00_scope.md R9;
93_implementation_defined.md G2). Without any digit it denotes 0: DESIGN CHOICE, log 20. -/
def Literal.value : Literal → Nat
  | .bin digits => digits.foldl (fun acc d => 2 * acc + d.toNat) 0
  | .hex digits => digits.foldl (fun acc d => 16 * acc + d.val) 0
  | .dec n => n

/-- A line of a host script (30_encoding.md R75), or a pseudo-instruction (R76). -/
inductive Line where
  | wr (reg : Reg) (lit : Literal)
  | rd (reg : Reg)
  | wb (i : Nat) (lit : Literal)
  | rbCtbuf (i : Nat)
  | rbPtbuf (i : Nat)
  | cmd (i : Instr)
  | wait
  | run (i : Instr)
  | ldpair (n : PairNo) (p c : Literal)
  | ldct (digits : List (Fin 16))
  | movkeys
  deriving DecidableEq, Repr

/-- The blocks of a hexadecimal string, two digits each, the first the high four bits (20_memory.md R54). The last digit
of an odd number of them is dropped: DESIGN CHOICE, log 20. -/
def hexBlocks : List (Fin 16) → List Nat
  | hi :: lo :: rest => (16 * hi.val + lo.val) :: hexBlocks rest
  | _ => []

/-- The bus data of a literal; the bus has 16 bits (00_scope.md R7; log 18). -/
def Literal.data (l : Literal) : HostWord := BitVec.ofNat 16 l.value

/-- The bus address of block `i` of a buffer, `base + i` (20_memory.md R51). For an index outside the buffer the address is
truncated to the 12 bits of the bus: DESIGN CHOICE, log 20. -/
def bufferAddr (base i : Nat) : HostAddr := BitVec.ofNat 12 (base + i)

/-- `HostWrite` to block `i` of CTBUF (20_memory.md R51). -/
def writeCtbuf (i v : Nat) : Action := .write (bufferAddr ctbufBase i) (BitVec.ofNat 16 v)

/-- The writes of consecutive blocks to CTBUF from index `i` on (LDCT, 30_encoding.md R76). -/
def writeBlocks : Nat → List Nat → List Action
  | _, [] => []
  | i, v :: rest => writeCtbuf i v :: writeBlocks (i + 1) rest

/-- `CMD mnem`: a write of the command's word to CMD (30_encoding.md R75). -/
def issueAction (i : Instr) : Action := .write Reg.cmd.addr ((encode i).setWidth 16)

/-- The host actions a line stands for (30_encoding.md R75, R76). -/
def Line.actions : Line → List Action
  | .wr reg lit => [.write reg.addr lit.data]
  | .rd reg => [.read reg.addr]
  | .wb i lit => [writeCtbuf i lit.value]
  | .rbCtbuf i => [.read (bufferAddr ctbufBase i)]
  | .rbPtbuf i => [.read (bufferAddr ptbufBase i)]
  | .cmd i => [issueAction i]
  | .wait => [.wait]
  | .run i => [issueAction i, .wait]
  | .ldpair n p c => [.write (Reg.p n).addr p.data, .write (Reg.c n).addr c.data]
  | .ldct digits =>
    let blocks := hexBlocks digits
    writeBlocks 0 blocks ++ [.write Reg.ctlen.addr (BitVec.ofNat 16 (8 * blocks.length))]
  | .movkeys =>
    [.read Reg.fk1.addr, .writeLast Reg.key1.addr, .read Reg.fk2.addr, .writeLast Reg.key2.addr]

/-- Whether a line is well formed. Its literal fits its target: 30_encoding.md R75 calls a line that breaks this
ill-formed. Its command is one that R72 gives a word. Its block index lies in the buffer, and LDCT's string gives an
even number of digits and no more blocks than the buffer has: R75 and R76 say nothing of lines that break this, and that
they are ill-formed is a DESIGN CHOICE, log 20. -/
def Line.wf : Line → Bool
  | .wr reg lit => decide (lit.value < 2 ^ reg.width)
  | .wb i lit => decide (i < Config.cbcBufBlocks) && decide (lit.value < 2 ^ 8)
  | .rbCtbuf i | .rbPtbuf i => decide (i < Config.cbcBufBlocks)
  | .cmd i | .run i => i.wf
  | .ldpair _ p c => decide (p.value < 2 ^ 8) && decide (c.value < 2 ^ 8)
  | .ldct digits => digits.length % 2 == 0 && decide (digits.length / 2 ≤ Config.cbcBufBlocks)
  | .rd _ | .wait | .movkeys => true

/-- The encoding of a script (30_encoding.md R75). -/
def scriptActions (lines : List Line) : List Action := lines.flatMap Line.actions

/-- The state whose host has this script to run (30_encoding.md R75). -/
def State.loadScript (s : State) (lines : List Line) : State := { s with script := scriptActions lines }

end Sys2Proof.Machine
end

