-- ==== Sys2Proof/Safety.lean ====
section
/-! DEFINITION. The terms claims about the machine are made in: the situations a command is in, the invariant of
every state a run reaches, and what a search and a host script come to. -/

namespace Sys2Proof.Machine

/-- The core is idle and not halted: a command written now is looked at (30_encoding.md R70). -/
abbrev State.ready (s : State) : Prop := s.seq = .idle ∧ s.status.busy = false ∧ s.status.fault = false

/-- Command `op` is in execution at a place of the sequencer, under a well-formed TABLES (10_state.md R33, R36). -/
abbrev State.executing (s : State) (op : Instr) (ph : Phase) (i j n : Nat) : Prop :=
  s.seq = .run op ph i j n ∧ s.tables.wf = true

/-- The flags and ERRCODE fit together (10_state.md R29, R30, R38; 60_exceptions.md R186). -/
structure FlagsInv (s : State) : Prop where
  /-- "STATUS.BUSY mirrors SEQ ≠ IDLE" (10_state.md R38). -/
  busyMirrorsSeq : s.status.busy = s.seq.running
  /-- FAULT says that the self-check failed (70_reset_and_hazards.md R211). -/
  faultIffIllFormed : s.status.fault = !s.tables.wf
  /-- A halted core shows STATUS 0x10 and ERRCODE 8 (10_state.md R40). -/
  halted : s.status.fault = true → s.status = { Status.zero with fault := true } ∧ s.errcode = .tableFault
  /-- Without a fault, ERR = 1 exactly when ERRCODE holds a rejection's code (10_state.md R29, R30). -/
  errIffCode : s.status.fault = false → ((s.status.err = true ↔ s.errcode ≠ .none) ∧ s.errcode ≠ .tableFault)
  /-- A rejected command has ended, and found nothing (60_exceptions.md R184). -/
  errDone : s.status.err = true → s.status.done = true ∧ s.status.found = false
  /-- FOUND is written by a commit (10_state.md R29). -/
  foundDone : s.status.found = true → s.status.done = true
  /-- While a command runs, nothing newer has ended (10_state.md R29, 30_encoding.md R70). -/
  busyClean : s.status.busy = true →
    s.status.done = false ∧ s.status.found = false ∧ s.status.err = false ∧ s.errcode = .none

/-- Every memory is in canonical form within its size (20_memory.md R50, R63; log 5). -/
structure MemoryInv (s : State) : Prop where
  ctbuf : Memory.wf Config.cbcBufBlocks s.ctbuf = true
  ptbuf : Memory.wf Config.cbcBufBlocks s.ptbuf = true
  fwd : Memory.wf Config.nKeys s.fwd = true
  bwd : Memory.wf Config.nKeys s.bwd = true
  ptOld : Memory.wf Config.cbcBufBlocks s.ptOld = true

/-- The place of the sequencer is one that the command can be at: its own phases, counters within their bounds
(10_state.md R33, 45_key_recovery.md R152, 46_cbc.md R161). -/
def placeFits (r : Regs) : Instr → Phase → Nat → Nat → Nat → Prop
  | .enc1, ph, i, j, n | .dec1, ph, i, j, n | .enc2, ph, i, j, n | .dec2, ph, i, j, n =>
    ph = .exec ∧ i = 0 ∧ j = 0 ∧ n = 0
  | .ksched sel, ph, i, j, n => selectorLegal sel = true ∧ ph = .exec ∧ i = 0 ∧ j = 0 ∧ n = 0
  | .mitm, .fillF, i, j, n => i < Config.nKeys ∧ j = 0 ∧ n = 0
  | .mitm, .fillB, i, j, n => i = Config.nKeys ∧ j < Config.nKeys ∧ n = 0
  | .mitm, .scan, i, j, n | .brute, .scan, i, j, n => i < Config.nKeys ∧ j < Config.nKeys ∧ n = 0
  | .cbcd, .blocks, i, j, n =>
    i = 0 ∧ j = 0 ∧ r.ctlen.toNat % 8 = 0 ∧ r.blockCount ≤ Config.cbcBufBlocks ∧ (n < r.blockCount ∨ n = 0)
  | _, _, _, _, _ => False

/-- The first `m` entries of FWD are those of step 1 (45_key_recovery.md R143). -/
def forwardFilled (s : State) (m : Nat) : Prop :=
  ∀ k < m, Memory.read s.fwd k = some (cipherE s.tables (s.regs.p.get .one) (keyOf k))

/-- The first `m` entries of BWD are those of step 2 (45_key_recovery.md R144). -/
def backwardFilled (s : State) (m : Nat) : Prop :=
  ∀ k < m, Memory.read s.bwd k = some (cipherD s.tables (s.regs.c.get .one) (keyOf k))

/-- `(i, j)` comes before `(i', j')` in the order of 45_key_recovery.md R147. -/
abbrev lexBefore (i j i' j' : Nat) : Prop := i < i' ∨ (i = i' ∧ j < j')

/-- No pair before `(i, j)` is in the verified set. -/
def nothingBefore (s : State) (i j : Nat) : Prop :=
  ∀ a b, a < Config.nKeys → b < Config.nKeys → lexBefore a b i j → verified s.tables s.regs a b = false

/-- What a command in execution has done so far (45_key_recovery.md R152, 46_cbc.md R162, 10_state.md R39). -/
def progress (s : State) : Instr → Phase → Nat → Nat → Nat → Prop
  | .mitm, .fillF, i, _, _ => forwardFilled s i
  | .mitm, .fillB, _, j, _ => forwardFilled s Config.nKeys ∧ backwardFilled s j
  | .mitm, .scan, i, j, _ => forwardFilled s Config.nKeys ∧ backwardFilled s Config.nKeys ∧ nothingBefore s i j
  | .brute, .scan, i, j, _ => nothingBefore s i j
  | .cbcd, .blocks, _, _, n =>
    s.chain = (if n = 0 then s.regs.iv else s.blockAt .ctbuf (n - 1)) ∧
    (∀ k < n, Memory.read s.ptbuf k = some (plainBlock s k)) ∧
    (∀ k, n ≤ k → Memory.read s.ptbuf k = Memory.read s.ptOld k)
  | _, _, _, _, _ => True

/-- The sequencer's part of the invariant. -/
def SequencerInv (s : State) : Prop :=
  match s.seq with
  | .idle => True
  | .run op ph i j n => placeFits s.regs op ph i j n ∧ progress s op ph i j n

/-- The invariant of every state a run from a reset reaches. -/
structure Inv (s : State) : Prop where
  flags : FlagsInv s
  memories : MemoryInv s
  sequencer : SequencerInv s

/-- What a completed search reports of the registers it started from: the lex-least member of the verified set with
FOUND = 1, or FOUND = 0 and zero keys when the set is empty (45_key_recovery.md R146, R147, R149; 10_state.md R26). -/
def SearchReport (t : Tables) (r : Regs) (found : Bool) (fk1 fk2 : Key) : Prop :=
  (found = true ∧ verified t r fk1.toNat fk2.toNat = true ∧
    ∀ a b, a < Config.nKeys → b < Config.nKeys → lexBefore a b fk1.toNat fk2.toNat → verified t r a b = false) ∨
  (found = false ∧ fk1 = 0 ∧ fk2 = 0 ∧
    ∀ a b, a < Config.nKeys → b < Config.nKeys → verified t r a b = false)

/-- The state a command leaves that is rejected with code `e` (60_exceptions.md R184). -/
abbrev State.rejectedWith (s : State) (e : ErrCode) : State :=
  { s with status := { s.status with done := true, found := false, err := true }, errcode := e }

/-- The state a command leaves that passes its checks (30_encoding.md R70). -/
abbrev State.startedWith (s : State) (op : Instr) (ph : Phase) : State :=
  { s with
    status := { s.status with busy := true, done := false, found := false, err := false }
    errcode := .none
    seq := .run op ph 0 0 0 }

/-- The write the host makes in the next step, if it makes one. -/
def nextWrite (s : State) : Option (HostAddr × HostWord) :=
  match nextMover s, s.script with
  | .host, .write a v :: _ => some (a, v)
  | .host, .writeLast a :: _ => s.reads.head?.map (fun v => (a, v))
  | _, _ => none

/-- Whether the platform applies reset in the next step. -/
def resetNext (s : State) : Bool := decide (nextMover s = .host) && decide (s.script.head? = some .reset)

/-- The inputs of commands: the registers and the buffer that no command writes (10_state.md R37). -/
def SameInputs (s t : State) : Prop :=
  t.regs.key1 = s.regs.key1 ∧ t.regs.key2 = s.regs.key2 ∧ t.regs.din = s.regs.din ∧ t.regs.iv = s.regs.iv ∧
  t.regs.ctlen = s.regs.ctlen ∧ t.regs.p = s.regs.p ∧ t.regs.c = s.regs.c ∧
  ∀ k, t.blockAt .ctbuf k = s.blockAt .ctbuf k

/-- TABLES and the outside world, which no command touches. -/
def SameSurroundings (s t : State) : Prop :=
  t.tables = s.tables ∧ t.script = s.script ∧ t.schedule = s.schedule ∧ t.reads = s.reads ∧ t.resets = s.resets

/-- What command `i` leaves of the flags whatever it does: FAULT, and OVR unless the command is turned away by a busy
core, which the next step of the command in execution is not (10_state.md R29, R31 (d)). -/
def SameStickyFlags (i : Instr) (s t : State) : Prop :=
  t.status.fault = s.status.fault ∧
  ((s.inProgress i = true ∧ i.wf = true) ∨ s.status.busy = false → t.status.ovr = s.status.ovr)

/-- The block that command `i` stores to when it takes its next sequencer step: the effective address is the counter
itself (20_memory.md R63). -/
def storedPlace (i : Instr) (s : State) : Option (Space × Nat) :=
  match i, s.seq with
  | .mitm, .run .mitm .fillF a _ _ => some (.fwd, a)
  | .mitm, .run .mitm .fillB _ b _ => some (.bwd, b)
  | .cbcd, .run .cbcd _ _ _ n => if n < s.regs.blockCount then some (.ptbuf, n) else none
  | _, _ => none

/-- Every block of every memory reads as before, but for the one stored to. -/
def SameBlocksBut (place : Option (Space × Nat)) (s t : State) : Prop :=
  ∀ sp k, place ≠ some (sp, k) → t.blockAt sp k = s.blockAt sp k

/-- What a run leaves for the host to see and later commands to use: registers, flags but OVR, ERRCODE, memories. -/
def SameResults (s t : State) : Prop :=
  t.regs = s.regs ∧ t.status.done = s.status.done ∧ t.status.found = s.status.found ∧
  t.status.err = s.status.err ∧ t.errcode = s.errcode ∧ ∀ sp, t.mem sp = s.mem sp

/-- `k` steps of the machine. -/
abbrev runs (k : Nat) (s : State) : Result := Host.Core.run Sys2Proof.core k s

end Sys2Proof.Machine
end

