-- ==== Sys2Proof/Certificates/Slice0/Obligations.lean ====
section
/-! DEFINITION. The statements about the S-DES core that the provers are asked to settle. A statement about one state
and its next state holds for every state that meets its hypotheses, reached by a run or not; the runs of the last
group start from any state that meets `Inv`. -/

open Sys2Proof Sys2Proof.Machine

/-! ### Command words -/

/-- 30_encoding.md R70, R72: decoding and encoding are inverse, for every word and every command. That KSCHED stands
here with each of the four values of SEL, so that 0x05 and 0x35 (SEL = 0 and 3) decode to KSCHED, is the model's reading
(log 16, DEDUCED): R72 gives KSCHED's row for SEL = 1 and 2. -/
def Obligations.DecodeAndEncodeAgree : Prop :=
  ∀ (c : CmdWord) (i : Instr), decode c = .ok i ↔ encode i = c

/-- 30_encoding.md R72, column "word": each of the eleven command words, written out bit by bit, decodes to its
command. -/
def Obligations.CommandWordsDecode : Prop :=
  decode 0b00000000#8 = .ok .nop ∧ decode 0b00000001#8 = .ok .enc1 ∧ decode 0b00000010#8 = .ok .dec1 ∧
  decode 0b00000011#8 = .ok .enc2 ∧ decode 0b00000100#8 = .ok .dec2 ∧ decode 0b00010101#8 = .ok (.ksched 1) ∧
  decode 0b00100101#8 = .ok (.ksched 2) ∧ decode 0b00000110#8 = .ok .mitm ∧ decode 0b00000111#8 = .ok .brute ∧
  decode 0b00001000#8 = .ok .cbcd ∧ decode 0b00001001#8 = .ok .clr

/-- 30_encoding.md R73, its three classes of ILLEGAL_CMD: the decoder rejects the words with bits 7:6 set, with a
reserved operation code, or with a SEL operand on a command that takes none, and no other word. That R73's fourth class,
0x05 and 0x35, is not among the decoder's rejections (both decode to KSCHED, whose meaning raises BAD_SELECTOR) is the
model's reading (log 16, DEDUCED). -/
def Obligations.ReservedWordsAreRejected : Prop :=
  ∀ c : CmdWord, (∃ why, decode c = .error why) ↔
    (c.extractLsb' 6 2 ≠ 0#2 ∨ 10 ≤ (c.extractLsb' 0 4).toNat ∨
      (c.extractLsb' 0 4 ≠ 5#4 ∧ c.extractLsb' 4 2 ≠ 0#2))

/-! ### Steps -/

/-- 30_encoding.md R70: on a core that is idle and not halted, the host's write of a command word to CMD is the
decoded command's meaning at that state, the action taken off the script; and `withFetchWord` puts exactly that write
next. 20_memory.md R59 (a), (b), 30_encoding.md R75, R76: in the host's turn the next action of the script alone is done
and taken off: a write of data to any address is `hostWrite` of both, and the write that MOVKEYS makes is `hostWrite` of
the value read last (with nothing read it makes no access, the model's choice, log 14; WAIT, a read and a reset are in
WaitPollsStatus, HostReadsChangeNothing and ResetEventEndsTheEpisode). While the core is idle every turn is the host's;
while a command runs and the core is not halted it is one when the schedule says so and the script has an action left,
and uses up that entry (the model's choice, log 2). With nothing to do, an idle core stays as it is. -/
def Obligations.StepRunsTheWrittenCommand : Prop :=
  (∀ (s : State) (v : HostWord) (rest : List Action) (i : Instr), s.ready → s.script = .write 0x000 v :: rest →
    decode (v.setWidth 8) = .ok i → step s = exec i { s with script := rest }) ∧
  (∀ (s : State) (i : Instr), s.ready → step (s.withFetchWord 8 (encode i).toNat) = exec i s) ∧
  (∀ s : State, s.seq = .idle → nextMover s = .host ∧ (s.script = [] → step s = .next s)) ∧
  (∀ s : State, s.seq ≠ .idle → s.status.fault = false →
    (nextMover s = .host ↔ s.schedule.head? = some .host ∧ s.script ≠ [])) ∧
  (∀ (s : State) (rest : List Action), nextMover s = .host →
    let s' := { s with script := rest, schedule := if s.seq = .idle then s.schedule else s.schedule.tail }
    (∀ (a : HostAddr) (v : HostWord), s.script = .write a v :: rest → step s = hostWrite a v s') ∧
    (∀ a : HostAddr, s.script = .writeLast a :: rest →
      (∀ (v : HostWord) (earlier : List HostWord), s.reads = v :: earlier → step s = hostWrite a v s') ∧
      (s.reads = [] → step s = .next s')))

/-- 10_state.md R34: while a command runs and the host does not take the turn, a step is the meaning of the command
in execution, one entry of the schedule used up (log 2). -/
def Obligations.StepAdvancesTheRunningCommand : Prop :=
  ∀ (s : State) (op : Instr) (ph : Phase) (i j n : Nat), s.seq = .run op ph i j n → s.status.fault = false →
    (s.schedule.head? ≠ some .host ∨ s.script = []) →
    step s = exec op { s with schedule := s.schedule.tail }

/-! ### Bit vectors and the cipher -/

/-- 40_bitvector_permutation.md R96: output bit `i` of `perm` is the input bit at the 1-indexed position `T[i]`; `perm`
is linear over xor and keeps the all-zero and, for a table in range, the all-one vector; the rule's two examples. -/
def Obligations.PermSelectsSourcePositions : Prop :=
  (∀ (w : Nat) (T : List Nat) (v : BitVec w) (i : Nat) (h : i < T.length),
    bit (perm T.length T v) i = bit v (T[i] - 1)) ∧
  (∀ (w m : Nat) (T : List Nat) (a b : BitVec w), perm m T (a ^^^ b) = perm m T a ^^^ perm m T b) ∧
  (∀ (w m : Nat) (T : List Nat), perm m T (0#w) = 0#m) ∧
  (∀ (w : Nat) (T : List Nat), (∀ e ∈ T, 1 ≤ e ∧ e ≤ w) →
    perm T.length T (BitVec.allOnes w) = BitVec.allOnes T.length) ∧
  perm 3 [2, 1, 2] (0b10#2) = 0b010#3 ∧
  perm 8 stdTables.ip (0b10100101#8) = 0b01110100#8

/-- 40_bitvector_permutation.md R93: `rotl(v, k){i} = v{(i + k) mod len(v)}`, two rotations add up, a rotation by 0 does
nothing, and the all-zero and all-one vectors are fixed. -/
def Obligations.RotlIsCircular : Prop :=
  (∀ (w k i : Nat) (v : BitVec w), k < w → i < w → bit (rotl v k) i = bit v ((i + k) % w)) ∧
  (∀ (w a b : Nat) (v : BitVec w), a < w → b < w → rotl (rotl v a) b = rotl v ((a + b) % w)) ∧
  (∀ (w : Nat) (v : BitVec w), rotl v 0 = v) ∧
  (∀ (w k : Nat), rotl (0#w) k = 0#w ∧ rotl (BitVec.allOnes w) k = BitVec.allOnes w)

/-- 42_sbox_round.md R110: the corner bits are the row, the inner bits the column, both in 0..3; the rule's corner
cases and its examples under STD. -/
def Obligations.SboxReadsRowAndColumn : Prop :=
  (∀ (B : List (List Nat)) (x : Half),
    2 * (bit x 0).toNat + (bit x 3).toNat < 4 ∧ 2 * (bit x 1).toNat + (bit x 2).toNat < 4 ∧
    sbox B x = BitVec.ofNat 2
      ((B.getD (2 * (bit x 0).toNat + (bit x 3).toNat) []).getD (2 * (bit x 1).toNat + (bit x 2).toNat) 0)) ∧
  (∀ B : List (List Nat),
    sbox B 0b0000#4 = BitVec.ofNat 2 ((B.getD 0 []).getD 0 0) ∧
    sbox B 0b1111#4 = BitVec.ofNat 2 ((B.getD 3 []).getD 3 0) ∧
    sbox B 0b1001#4 = BitVec.ofNat 2 ((B.getD 3 []).getD 0 0) ∧
    sbox B 0b0110#4 = BitVec.ofNat 2 ((B.getD 0 []).getD 3 0)) ∧
  sbox stdTables.s1 0b1000#4 = 0b00#2 ∧ sbox stdTables.s2 0b1100#4 = 0b01#2

/-- 41_key_schedule.md R100, R102: each half is selected from the original key and rotated by itself, by 1 for selector
1 and for selector 2 by a further 2; and the two round keys the rule works out under STD. -/
def Obligations.KeyScheduleIsTwoStage : Prop :=
  (∀ (t : Tables) (k : Key),
    keySchedule t k .one = perm 8 t.pc2 (rotl (perm 5 t.pc1C k) 1 ++ rotl (perm 5 t.pc1D k) 1) ∧
    keySchedule t k .two =
      perm 8 t.pc2 (rotl (rotl (perm 5 t.pc1C k) 1) 2 ++ rotl (rotl (perm 5 t.pc1D k) 1) 2)) ∧
  keySchedule stdTables 0b1010000010#10 .one = 0b10100100#8 ∧
  keySchedule stdTables 0b1010000010#10 .two = 0b01000011#8

/-- 41_key_schedule.md R100, corner cases: under every well-formed TABLES the all-zero key has the all-zero round keys
and the all-one key the all-one round keys. -/
def Obligations.ConstantKeysGiveConstantRoundKeys : Prop :=
  ∀ (t : Tables) (q : Selector), t.wf = true →
    keySchedule t 0#10 q = 0#8 ∧ keySchedule t (BitVec.allOnes 10) q = BitVec.allOnes 8

/-- 42_sbox_round.md R112, corner case: the round key `perm(EP, h)` feeds zeros to both boxes, so `F` has the same
value for every half. -/
def Obligations.ExpandedHalfFeedsZerosToTheBoxes : Prop :=
  ∀ (t : Tables) (h : Half), roundF t h (perm 8 t.ep h) =
    perm 4 t.p4 (BitVec.ofNat 2 ((t.s1.getD 0 []).getD 0 0) ++ BitVec.ofNat 2 ((t.s2.getD 0 []).getD 0 0))

/-- 43_block_cipher.md R120, R121: `transform` unrolled, the decryption with the selectors in the other order, and the
rule's example under STD. -/
def Obligations.TransformUnrolls : Prop :=
  (∀ (t : Tables) (b : Block) (k : Key) (dir : Direction) (s1 s2 : Selector) (l0 r0 l1 r1 l2 r2 : Half),
    (dir = .encrypt ∧ s1 = .one ∧ s2 = .two ∨ dir = .decrypt ∧ s1 = .two ∧ s2 = .one) →
    l0 = slice (perm 8 t.ip b) 0 4 → r0 = slice (perm 8 t.ip b) 4 4 →
    l1 = r0 → r1 = roundF t r0 (keySchedule t k s1) ^^^ l0 →
    l2 = r1 → r2 = roundF t r1 (keySchedule t k s2) ^^^ l1 →
    transform t b k dir = perm 8 t.ipInv (r2 ++ l2)) ∧
  cipherE stdTables 0b10100101#8 0b1010000010#10 = 0b11001010#8

/-- 43_block_cipher.md R122: the round trip of the block cipher in both orders, for every block, every key and every
well-formed TABLES; so `E(·, k)` is a bijection; and the rule's scenario under STD. -/
def Obligations.DecryptionUndoesEncryption : Prop :=
  (∀ (t : Tables) (b : Block) (k : Key), t.wf = true →
    cipherD t (cipherE t b k) k = b ∧ cipherE t (cipherD t b k) k = b) ∧
  (∀ (t : Tables) (k : Key), t.wf = true → Function.Bijective (fun b => cipherE t b k)) ∧
  cipherD stdTables (cipherE stdTables 0b10100101#8 0b1010000010#10) 0b1010000010#10 = 0b10100101#8

/-- 44_double_cipher.md R130, R131, R132 (a): key1 is applied first and undone last, and decryption undoes encryption
for all key pairs and blocks. The other order, encryption undoing decryption, is derived: it follows from
43_block_cipher.md R122, whose round trip holds in both orders. -/
def Obligations.DoubleCipherRoundTrip : Prop :=
  (∀ (t : Tables) (b : Block) (k1 k2 : Key),
    cipherE2 t b k1 k2 = transform t (transform t b k1 .encrypt) k2 .encrypt ∧
    cipherD2 t b k1 k2 = transform t (transform t b k2 .decrypt) k1 .decrypt) ∧
  (∀ (t : Tables) (b : Block) (k1 k2 : Key), t.wf = true →
    cipherD2 t (cipherE2 t b k1 k2) k1 k2 = b ∧ cipherE2 t (cipherD2 t b k1 k2) k1 k2 = b)

/-- 45_key_recovery.md R145: the forward and the backward value of a pair meet exactly when the pair re-encrypts the
pivot. -/
def Obligations.CandidateIffPivotReencrypts : Prop :=
  ∀ (t : Tables) (p1 c1 : Block) (ki kj : Key), t.wf = true →
    (cipherE t p1 ki = cipherD t c1 kj ↔ cipherE2 t p1 ki kj = c1)

/-! ### What each command does

Where a commit leaves a value in the hidden latch, that it stays there, and that CBCD latches nothing, is the model's
reading (log 9). -/

/-- 43_block_cipher.md R123: ENC1 is accepted by an idle core, and its step commits `DOUT = E(DIN, KEY1)` and leaves
everything else. (Latch: log 9.) -/
def Obligations.Enc1StoresEncryption : Prop :=
  (∀ s : State, s.ready → exec .enc1 s = .next (s.startedWith .enc1 .exec)) ∧
  (∀ (s : State) (ph : Phase) (i j n : Nat), s.executing .enc1 ph i j n →
    exec .enc1 s = .next { s with
      regs := { s.regs with dout := cipherE s.tables s.regs.din s.regs.key1 }
      status := { s.status with busy := false, done := true }
      seq := .idle
      latch := .block (cipherE s.tables s.regs.din s.regs.key1) }) ∧
  cipherE stdTables 0xA5 0x282 = 0xCA

/-- 43_block_cipher.md R124: DEC1 is accepted by an idle core, and its step commits `DOUT = D(DIN, KEY1)` and leaves
everything else. (Latch: log 9.) -/
def Obligations.Dec1StoresDecryption : Prop :=
  (∀ s : State, s.ready → exec .dec1 s = .next (s.startedWith .dec1 .exec)) ∧
  (∀ (s : State) (ph : Phase) (i j n : Nat), s.executing .dec1 ph i j n →
    exec .dec1 s = .next { s with
      regs := { s.regs with dout := cipherD s.tables s.regs.din s.regs.key1 }
      status := { s.status with busy := false, done := true }
      seq := .idle
      latch := .block (cipherD s.tables s.regs.din s.regs.key1) }) ∧
  cipherD stdTables 0xCA 0x282 = 0xA5

/-- 44_double_cipher.md R133: ENC2 is accepted by an idle core, and its step commits `DOUT = E2(DIN, KEY1, KEY2)` and
leaves everything else. (Latch: log 9.) -/
def Obligations.Enc2StoresDoubleEncryption : Prop :=
  (∀ s : State, s.ready → exec .enc2 s = .next (s.startedWith .enc2 .exec)) ∧
  (∀ (s : State) (ph : Phase) (i j n : Nat), s.executing .enc2 ph i j n →
    exec .enc2 s = .next { s with
      regs := { s.regs with dout := cipherE2 s.tables s.regs.din s.regs.key1 s.regs.key2 }
      status := { s.status with busy := false, done := true }
      seq := .idle
      latch := .block (cipherE2 s.tables s.regs.din s.regs.key1 s.regs.key2) }) ∧
  cipherE stdTables 0x48 0x2E9 = 0b00000001#8 ∧ cipherE2 stdTables 0x48 0x2E9 0x1DA = 0x30

/-- 44_double_cipher.md R134: DEC2 is accepted by an idle core, and its step commits `DOUT = D2(DIN, KEY1, KEY2)` and
leaves everything else. (Latch: log 9.) -/
def Obligations.Dec2StoresDoubleDecryption : Prop :=
  (∀ s : State, s.ready → exec .dec2 s = .next (s.startedWith .dec2 .exec)) ∧
  (∀ (s : State) (ph : Phase) (i j n : Nat), s.executing .dec2 ph i j n →
    exec .dec2 s = .next { s with
      regs := { s.regs with dout := cipherD2 s.tables s.regs.din s.regs.key1 s.regs.key2 }
      status := { s.status with busy := false, done := true }
      seq := .idle
      latch := .block (cipherD2 s.tables s.regs.din s.regs.key1 s.regs.key2) }) ∧
  cipherD stdTables 0x30 0x1DA = 0b00000001#8 ∧ cipherD2 stdTables 0x30 0x2E9 0x1DA = 0x48

/-- 41_key_schedule.md R104: KSCHED 1 and KSCHED 2 are accepted by an idle core, and their step commits
`RKEY = KS(KEY1, s)` and leaves everything else; and the rule's example under STD. (Latch: log 9.) -/
def Obligations.KschedStoresRoundKey : Prop :=
  (∀ (s : State) (sel : BitVec 2), sel = 1#2 ∨ sel = 2#2 → s.ready →
    exec (.ksched sel) s = .next (s.startedWith (.ksched sel) .exec)) ∧
  (∀ (s : State) (sel : BitVec 2) (q : Selector) (ph : Phase) (i j n : Nat),
    (sel = 1#2 ∧ q = .one) ∨ (sel = 2#2 ∧ q = .two) → s.executing (.ksched sel) ph i j n →
    exec (.ksched sel) s = .next { s with
      regs := { s.regs with rkey := keySchedule s.tables s.regs.key1 q }
      status := { s.status with busy := false, done := true }
      seq := .idle
      latch := .roundKey (keySchedule s.tables s.regs.key1 q) }) ∧
  keySchedule stdTables 0x282 .two = 0x43

/-- 60_exceptions.md R183: KSCHED with SEL 0 or 3 is rejected with BAD_SELECTOR and has no other effect; in
particular RKEY is unchanged. -/
def Obligations.KschedRejectsOtherSelectors : Prop :=
  ∀ (s : State) (sel : BitVec 2), sel = 0#2 ∨ sel = 3#2 → s.ready →
    exec (.ksched sel) s = .next (s.rejectedWith .badSelector)

/-- 45_key_recovery.md R143, R144, R152: MITM is accepted by an idle core; each step of FILL_F writes
`FWD[k] = E(p1, bv_10(k))` and each step of FILL_B `BWD[k] = D(c1, bv_10(k))`, every other block staying as it was; at
1024 the next phase starts (what the counters hold then: log 8). -/
def Obligations.MitmFillsForwardAndBackward : Prop :=
  (∀ s : State, s.ready → exec .mitm s = .next (s.startedWith .mitm .fillF)) ∧
  (∀ (s : State) (k j n : Nat), s.executing .mitm .fillF k j n → k < 1024 →
    ∃ t, exec .mitm s = .next t ∧
      t.blockAt .fwd k = cipherE s.tables s.regs.p.r1 (keyOf k) ∧
      SameBlocksBut (some (.fwd, k)) s t ∧
      t = { s with
        fwd := t.fwd
        seq := if k = 1023 then .run .mitm .fillB 1024 0 n else .run .mitm .fillF (k + 1) j n }) ∧
  (∀ (s : State) (i k n : Nat), s.executing .mitm .fillB i k n → k < 1024 →
    ∃ t, exec .mitm s = .next t ∧
      t.blockAt .bwd k = cipherD s.tables s.regs.c.r1 (keyOf k) ∧
      SameBlocksBut (some (.bwd, k)) s t ∧
      t = { s with
        bwd := t.bwd
        seq := if k = 1023 then .run .mitm .scan 0 0 n else .run .mitm .fillB i (k + 1) n })

/-- 45_key_recovery.md R148, R152: one step of MITM's SCAN. A pair whose forward and backward values meet and that
re-encrypts the four auxiliary plaintexts is committed with FOUND = 1; any other pair moves the scan on, in the order
of R147; after the last pair 0, 0 and FOUND = 0 are committed, with ERR and ERRCODE as they were (60_exceptions.md
R188). (Latch: log 9.) -/
def Obligations.MitmScansInLexOrder : Prop :=
  ∀ (s : State) (i j n : Nat), s.executing .mitm .scan i j n → i < 1024 → j < 1024 →
    let hit := s.blockAt .fwd i = s.blockAt .bwd j ∧
      cipherE2 s.tables s.regs.p.r2 (keyOf i) (keyOf j) = s.regs.c.r2 ∧
      cipherE2 s.tables s.regs.p.r3 (keyOf i) (keyOf j) = s.regs.c.r3 ∧
      cipherE2 s.tables s.regs.p.r4 (keyOf i) (keyOf j) = s.regs.c.r4 ∧
      cipherE2 s.tables s.regs.p.r5 (keyOf i) (keyOf j) = s.regs.c.r5
    (hit → exec .mitm s = .next { s with
      regs := { s.regs with fk1 := keyOf i, fk2 := keyOf j }
      status := { s.status with busy := false, done := true, found := true }
      seq := .idle
      latch := .keyPair (some (keyOf i, keyOf j)) }) ∧
    (¬hit → j < 1023 → exec .mitm s = .next { s with seq := .run .mitm .scan i (j + 1) n }) ∧
    (¬hit → j = 1023 → i < 1023 → exec .mitm s = .next { s with seq := .run .mitm .scan (i + 1) 0 n }) ∧
    (¬hit → j = 1023 → i = 1023 → exec .mitm s = .next { s with
      regs := { s.regs with fk1 := 0, fk2 := 0 }
      status := { s.status with busy := false, done := true, found := false }
      seq := .idle
      latch := .keyPair none })

/-- 45_key_recovery.md R150, R152: BRUTE is accepted by an idle core; one step of its SCAN tests the pair against all
five known pairs, and commits or moves on as MITM's does. (Latch: log 9.) -/
def Obligations.BruteScansInLexOrder : Prop :=
  (∀ s : State, s.ready → exec .brute s = .next (s.startedWith .brute .scan)) ∧
  (∀ (s : State) (i j n : Nat), s.executing .brute .scan i j n → i < 1024 → j < 1024 →
    let hit := cipherE2 s.tables s.regs.p.r1 (keyOf i) (keyOf j) = s.regs.c.r1 ∧
      cipherE2 s.tables s.regs.p.r2 (keyOf i) (keyOf j) = s.regs.c.r2 ∧
      cipherE2 s.tables s.regs.p.r3 (keyOf i) (keyOf j) = s.regs.c.r3 ∧
      cipherE2 s.tables s.regs.p.r4 (keyOf i) (keyOf j) = s.regs.c.r4 ∧
      cipherE2 s.tables s.regs.p.r5 (keyOf i) (keyOf j) = s.regs.c.r5
    (hit → exec .brute s = .next { s with
      regs := { s.regs with fk1 := keyOf i, fk2 := keyOf j }
      status := { s.status with busy := false, done := true, found := true }
      seq := .idle
      latch := .keyPair (some (keyOf i, keyOf j)) }) ∧
    (¬hit → j < 1023 → exec .brute s = .next { s with seq := .run .brute .scan i (j + 1) n }) ∧
    (¬hit → j = 1023 → i < 1023 → exec .brute s = .next { s with seq := .run .brute .scan (i + 1) 0 n }) ∧
    (¬hit → j = 1023 → i = 1023 → exec .brute s = .next { s with
      regs := { s.regs with fk1 := 0, fk2 := 0 }
      status := { s.status with busy := false, done := true, found := false }
      seq := .idle
      latch := .keyPair none }))

/-- 46_cbc.md R162, 10_state.md R39: one step of CBCD stores `D2(CTBUF[n]) ^ CHAIN` at PTBUF[n], leaves every other block
of every memory, and carries the ciphertext block over in CHAIN; the step of the last block commits. (Latch: log 9.) -/
def Obligations.CbcdDecryptsOneBlock : Prop :=
  ∀ (s : State) (i j n : Nat), s.executing .cbcd .blocks i j n → n < s.regs.ctlen.toNat / 8 →
    ∃ t, exec .cbcd s = .next t ∧
      t.blockAt .ptbuf n =
        cipherD2 s.tables (s.blockAt .ctbuf n) s.regs.key1 s.regs.key2 ^^^ s.chain ∧
      SameBlocksBut (some (.ptbuf, n)) s t ∧
      (n + 1 < s.regs.ctlen.toNat / 8 →
        t = { s with ptbuf := t.ptbuf, chain := s.blockAt .ctbuf n, seq := .run .cbcd .blocks i j (n + 1) }) ∧
      (n + 1 = s.regs.ctlen.toNat / 8 →
        t = { s with
          ptbuf := t.ptbuf
          chain := s.blockAt .ctbuf n
          latch := .nothing
          seq := .idle
          status := { s.status with busy := false, done := true } })

/-- 46_cbc.md R161, 60_exceptions.md R185: the length check of CBCD at acceptance, BAD_LENGTH first; a rejected CBCD
leaves everything but STATUS and ERRCODE; a length that passes is accepted, with `prev = IV` in CHAIN; an empty stream
(CTLEN below 8) commits in one step and writes no block (that it takes one step: log 7). -/
def Obligations.CbcdLengthCheck : Prop :=
  (∀ s : State, s.ready →
    (s.regs.ctlen.toNat % 8 ≠ 0 → exec .cbcd s = .next (s.rejectedWith .badLength)) ∧
    (s.regs.ctlen.toNat % 8 = 0 → 8 * 256 < s.regs.ctlen.toNat →
      exec .cbcd s = .next (s.rejectedWith .lengthRange)) ∧
    (s.regs.ctlen.toNat % 8 = 0 → s.regs.ctlen.toNat ≤ 8 * 256 →
      exec .cbcd s = .next { s.startedWith .cbcd .blocks with chain := s.regs.iv, ptOld := s.ptbuf })) ∧
  (∀ (s : State) (i j n : Nat), s.executing .cbcd .blocks i j n → s.regs.ctlen.toNat / 8 = 0 →
    exec .cbcd s = .next { s with
      latch := .nothing
      seq := .idle
      status := { s.status with busy := false, done := true } })

/-- 47_control.md R170: NOP, the word 0x00, changes nothing on an idle core and on a halted one; while BUSY = 1 its
write sets OVR like any other. -/
def Obligations.NopChangesNothing : Prop :=
  encode .nop = 0x00#8 ∧ ∀ s : State,
    (s.status.fault = true → exec .nop s = .next s) ∧
    (s.status.fault = false → s.status.busy = true →
      exec .nop s = .next { s with status := { s.status with ovr := true } }) ∧
    (s.status.fault = false → s.status.busy = false → exec .nop s = .next s)

/-- 47_control.md R171: CLR clears DONE, FOUND, ERR, OVR and ERRCODE at once and nothing else; while BUSY = 1 it is
ignored and sets OVR, while FAULT = 1 it is ignored. -/
def Obligations.ClrClearsFlags : Prop :=
  ∀ s : State,
    (s.status.fault = true → exec .clr s = .next s) ∧
    (s.status.fault = false → s.status.busy = true →
      exec .clr s = .next { s with status := { s.status with ovr := true } }) ∧
    (s.status.fault = false → s.status.busy = false →
      exec .clr s = .next { s with
        status := { s.status with done := false, found := false, err := false, ovr := false }
        errcode := .none })

/-! ### Errors and priority -/

/-- 60_exceptions.md R182, 30_encoding.md R73: a write to CMD whose low 8 bits are a reserved word is rejected with
ILLEGAL_CMD and does nothing else. -/
def Obligations.ReservedWordRaisesIllegalCmd : Prop :=
  ∀ (s : State) (v : HostWord), s.ready →
    (v.extractLsb' 6 2 ≠ 0#2 ∨ 10 ≤ (v.extractLsb' 0 4).toNat ∨
      (v.extractLsb' 0 4 ≠ 5#4 ∧ v.extractLsb' 4 2 ≠ 0#2)) →
    hostWrite 0x000 v s = .next (s.rejectedWith .illegalCmd)

/-- 60_exceptions.md R190: the priority of the conditions at a CMD write, in its order. -/
def Obligations.CommandWritePriority : Prop :=
  ∀ (s : State) (v : HostWord), (s.status.busy = false → s.seq = .idle) →
    let c : CmdWord := v.setWidth 8
    let reserved := c.extractLsb' 6 2 ≠ 0#2 ∨ 10 ≤ (c.extractLsb' 0 4).toNat ∨
      (c.extractLsb' 0 4 ≠ 5#4 ∧ c.extractLsb' 4 2 ≠ 0#2)
    (s.status.fault = true → hostWrite 0x000 v s = .next s) ∧
    (s.status.fault = false → s.status.busy = true →
      hostWrite 0x000 v s = .next { s with status := { s.status with ovr := true } }) ∧
    (s.status.fault = false → s.status.busy = false →
      (c = 0x00 → hostWrite 0x000 v s = .next s) ∧
      (c = 0x09 → hostWrite 0x000 v s = .next { s with
        status := { s.status with done := false, found := false, err := false, ovr := false }
        errcode := .none }) ∧
      (reserved → hostWrite 0x000 v s = .next (s.rejectedWith .illegalCmd)) ∧
      (c = 0x05 ∨ c = 0x35 → hostWrite 0x000 v s = .next (s.rejectedWith .badSelector)) ∧
      (c = 0x08 → s.regs.ctlen.toNat % 8 ≠ 0 →
        hostWrite 0x000 v s = .next (s.rejectedWith .badLength)) ∧
      (c = 0x08 → s.regs.ctlen.toNat % 8 = 0 → 2048 < s.regs.ctlen.toNat →
        hostWrite 0x000 v s = .next (s.rejectedWith .lengthRange)) ∧
      (¬reserved → c ≠ 0x00 → c ≠ 0x09 → c ≠ 0x05 → c ≠ 0x35 →
        (c = 0x08 → s.regs.ctlen.toNat % 8 = 0 ∧ s.regs.ctlen.toNat ≤ 2048) →
        ∃ t, hostWrite 0x000 v s = .next t ∧ t.status.busy = true ∧ t.status.err = false ∧ t.errcode = .none))

/-- 60_exceptions.md R184: an error is raised in no step but the host's write of a command to a core that is neither
busy nor halted, and that step changes nothing but DONE, FOUND, ERR and ERRCODE (beside the script and schedule, which
every step may use up). The premise that BUSY mirrors SEQ is part of `Inv`. -/
def Obligations.ErrorOnlyAtAcceptance : Prop :=
  ∀ s t : State, s.status.busy = s.seq.running → step s = .next t → s.status.err = false →
    t.status.err = true →
    (∃ v, nextWrite s = some (0x000, v)) ∧ s.status.busy = false ∧ s.status.fault = false ∧
    t.errcode ≠ .none ∧
    t = { s with
      status := { s.status with done := true, found := false, err := true }
      errcode := t.errcode
      script := t.script
      schedule := t.schedule }

/-! ### Frames -/

/-- 43_block_cipher.md R123, R124; 44_double_cipher.md R133, R134: what ENC1, DEC1, ENC2 and DEC2 leave unchanged. Of the
registers only DOUT can change, of the flags BUSY, DONE, FOUND, ERR (and OVR when turned away by a busy core); ERRCODE,
the sequencer and the latched result can change; no block of memory does. -/
def Obligations.CipherCommandsFrame : Prop :=
  ∀ (i : Instr) (s t : State), i = .enc1 ∨ i = .dec1 ∨ i = .enc2 ∨ i = .dec2 → exec i s = .next t →
    t.regs = { s.regs with dout := t.regs.dout } ∧ SameStickyFlags i s t ∧ SameSurroundings s t ∧
    t.chain = s.chain ∧ t.ptOld = s.ptOld ∧ SameBlocksBut none s t

/-- 41_key_schedule.md R104: what KSCHED leaves unchanged, with every selector; of the registers only RKEY can change. -/
def Obligations.KschedFrame : Prop :=
  ∀ (sel : BitVec 2) (s t : State), exec (.ksched sel) s = .next t →
    t.regs = { s.regs with rkey := t.regs.rkey } ∧ SameStickyFlags (.ksched sel) s t ∧ SameSurroundings s t ∧
    t.chain = s.chain ∧ t.ptOld = s.ptOld ∧ SameBlocksBut none s t

/-- 45_key_recovery.md R148, R150: what MITM and BRUTE leave unchanged. Of the registers only FK1 and FK2 can change;
the one block stored to is FWD[i] in FILL_F and BWD[j] in FILL_B, i and j the counters (20_memory.md R63); BRUTE stores
nothing. -/
def Obligations.SearchFrame : Prop :=
  ∀ (i : Instr) (s t : State), i = .mitm ∨ i = .brute → exec i s = .next t →
    t.regs = { s.regs with fk1 := t.regs.fk1, fk2 := t.regs.fk2 } ∧ SameStickyFlags i s t ∧
    SameSurroundings s t ∧ t.chain = s.chain ∧ t.ptOld = s.ptOld ∧ SameBlocksBut (storedPlace i s) s t

/-- 46_cbc.md R164: what CBCD leaves unchanged. No register changes; the one block stored to is PTBUF[n], n the block
counter (20_memory.md R63); CHAIN and the model's PTBUF snapshot can change. -/
def Obligations.CbcdFrame : Prop :=
  ∀ s t : State, exec .cbcd s = .next t →
    t.regs = s.regs ∧ SameStickyFlags .cbcd s t ∧ SameSurroundings s t ∧
    SameBlocksBut (storedPlace .cbcd s) s t

/-- 47_control.md R170, R171: NOP and CLR touch no register, no block, no hidden state, and neither BUSY nor FAULT; NOP
leaves DONE, FOUND, ERR and ERRCODE as well. -/
def Obligations.ControlCommandsFrame : Prop :=
  (∀ (i : Instr) (s t : State), i = .nop ∨ i = .clr → exec i s = .next t →
    t = { s with status := t.status, errcode := t.errcode } ∧ t.status.busy = s.status.busy ∧
    t.status.fault = s.status.fault) ∧
  (∀ s t : State, exec .nop s = .next t →
    t = { s with status := { s.status with ovr := t.status.ovr } } ∧
    (s.status.busy = false → t.status.ovr = s.status.ovr))

/-- 10_state.md R37: no command changes an input of any command, whatever it does; and while a command runs, no step
but a reset does, the host's writes included. -/
def Obligations.NoCommandWritesAnInput : Prop :=
  (∀ (i : Instr) (s t : State), exec i s = .next t → SameInputs s t) ∧
  (∀ s t : State, s.status.busy = true → step s = .next t → resetNext s = false → SameInputs s t)

/-- 60_exceptions.md R186, R187: no step changes TABLES, and none but a reset changes FAULT, which a reset leaves at
the self-check's answer; so under a well-formed TABLES no step raises it. -/
def Obligations.FaultOnlyFromReset : Prop :=
  (∀ s t : State, step s = .next t → t.tables = s.tables ∧
    (t.status.fault = s.status.fault ∨ (resetNext s = true ∧ t.status.fault = !s.tables.wf))) ∧
  (∀ s t : State, step s = .next t → s.tables.wf = true → s.status.fault = false → t.status.fault = false)

/-! ### The host port -/

/-- 10_state.md R31 (c), (d), (e), 20_memory.md R52, 10_state.md R23: a halted core ignores every write, a busy one
loses it and sets OVR, whatever the address; otherwise a write to a read-only register, to PTBUF or to an unmapped
address changes nothing, and a write to KEY1 takes its low 10 bits and clears RKEY. -/
def Obligations.HostWriteRules : Prop :=
  ∀ (s : State) (a : HostAddr) (v : HostWord),
    (s.status.fault = true → hostWrite a v s = .next s) ∧
    (s.status.fault = false → s.status.busy = true →
      hostWrite a v s = .next { s with status := { s.status with ovr := true } }) ∧
    (s.status.fault = false → s.status.busy = false →
      ((0x001 ≤ a ∧ a ≤ 0x003) ∨ a = 0x007 ∨ a = 0x008 ∨ (0x00B ≤ a ∧ a ≤ 0x010) ∨ (0x016 ≤ a ∧ a ≤ 0x018) ∨
        (0x01E ≤ a ∧ a ≤ 0x3FF) ∨ 0x500 ≤ a) → hostWrite a v s = .next s) ∧
    (s.status.fault = false → s.status.busy = false →
      hostWrite 0x004 v s = .next { s with regs := { s.regs with key1 := v.setWidth 10, rkey := 0 } })

/-- 10_state.md R20, R23, R31 (a), (b), 20_memory.md R51, R59 (b): a host read of a data register, at its address in the
map and in any state, returns the register zero-extended; an accepted write to a writable one, at its address, takes the
low bits of the data into that register and nothing else, but for RKEY, which a write to KEY1 clears; what was written
reads back, and no other register's reading changes. (STATUS and ERRCODE are read in StatusWordLayout, CMD in
HostReadsChangeNothing; writes to read-only registers are in HostWriteRules.) -/
def Obligations.WrittenRegisterReadsBack : Prop :=
  (∀ s : State,
    hostRead 0x004 s = s.regs.key1.setWidth 16 ∧ hostRead 0x005 s = s.regs.key2.setWidth 16 ∧
    hostRead 0x006 s = s.regs.din.setWidth 16 ∧ hostRead 0x007 s = s.regs.dout.setWidth 16 ∧
    hostRead 0x008 s = s.regs.rkey.setWidth 16 ∧ hostRead 0x009 s = s.regs.iv.setWidth 16 ∧
    hostRead 0x00A s = s.regs.ctlen ∧ hostRead 0x00B s = s.regs.fk1.setWidth 16 ∧
    hostRead 0x00C s = s.regs.fk2.setWidth 16 ∧ hostRead 0x011 s = (s.regs.p.get .one).setWidth 16 ∧
    hostRead 0x012 s = (s.regs.p.get .two).setWidth 16 ∧ hostRead 0x013 s = (s.regs.p.get .three).setWidth 16 ∧
    hostRead 0x014 s = (s.regs.p.get .four).setWidth 16 ∧ hostRead 0x015 s = (s.regs.p.get .five).setWidth 16 ∧
    hostRead 0x019 s = (s.regs.c.get .one).setWidth 16 ∧ hostRead 0x01A s = (s.regs.c.get .two).setWidth 16 ∧
    hostRead 0x01B s = (s.regs.c.get .three).setWidth 16 ∧ hostRead 0x01C s = (s.regs.c.get .four).setWidth 16 ∧
    hostRead 0x01D s = (s.regs.c.get .five).setWidth 16) ∧
  (∀ (s : State) (v : HostWord), s.status.busy = false → s.status.fault = false →
    hostWrite 0x004 v s = .next { s with regs := { s.regs with key1 := v.setWidth 10, rkey := 0 } } ∧
    hostWrite 0x005 v s = .next { s with regs := { s.regs with key2 := v.setWidth 10 } } ∧
    hostWrite 0x006 v s = .next { s with regs := { s.regs with din := v.setWidth 8 } } ∧
    hostWrite 0x009 v s = .next { s with regs := { s.regs with iv := v.setWidth 8 } } ∧
    hostWrite 0x00A v s = .next { s with regs := { s.regs with ctlen := v } } ∧
    hostWrite 0x011 v s = .next { s with regs := { s.regs with p := { s.regs.p with r1 := v.setWidth 8 } } } ∧
    hostWrite 0x012 v s = .next { s with regs := { s.regs with p := { s.regs.p with r2 := v.setWidth 8 } } } ∧
    hostWrite 0x013 v s = .next { s with regs := { s.regs with p := { s.regs.p with r3 := v.setWidth 8 } } } ∧
    hostWrite 0x014 v s = .next { s with regs := { s.regs with p := { s.regs.p with r4 := v.setWidth 8 } } } ∧
    hostWrite 0x015 v s = .next { s with regs := { s.regs with p := { s.regs.p with r5 := v.setWidth 8 } } } ∧
    hostWrite 0x019 v s = .next { s with regs := { s.regs with c := { s.regs.c with r1 := v.setWidth 8 } } } ∧
    hostWrite 0x01A v s = .next { s with regs := { s.regs with c := { s.regs.c with r2 := v.setWidth 8 } } } ∧
    hostWrite 0x01B v s = .next { s with regs := { s.regs with c := { s.regs.c with r3 := v.setWidth 8 } } } ∧
    hostWrite 0x01C v s = .next { s with regs := { s.regs with c := { s.regs.c with r4 := v.setWidth 8 } } } ∧
    hostWrite 0x01D v s = .next { s with regs := { s.regs with c := { s.regs.c with r5 := v.setWidth 8 } } }) ∧
  ∀ (s : State) (r : Reg) (v : HostWord), s.status.busy = false → s.status.fault = false →
    (r = .key1 ∨ r = .key2 ∨ r = .din ∨ r = .iv ∨ r = .ctlen ∨ (∃ n, r = .p n) ∨ (∃ n, r = .c n)) →
    ∃ t, hostWrite r.addr v s = .next t ∧
      hostRead r.addr t = BitVec.ofNat 16 (v.toNat % 2 ^ r.width) ∧
      (r = .key1 → hostRead Reg.rkey.addr t = 0) ∧
      ∀ r' : Reg, r' ≠ r → (r = .key1 → r' ≠ .rkey) → hostRead r'.addr t = hostRead r'.addr s

/-- 20_memory.md R51, R59 (b): a host read of address 0x400 + k returns block k of CTBUF zero-extended, in any state; the
block takes the low 8 bits of an accepted write there and reads back as them; no other block, no register and no flag
changes, and no other address of an idle core reads differently. -/
def Obligations.WrittenCtbufBlockReadsBack : Prop :=
  (∀ (s : State) (k : Nat), k < 256 →
    hostRead (BitVec.ofNat 12 (0x400 + k)) s = (s.blockAt .ctbuf k).setWidth 16) ∧
  ∀ (s : State) (k : Nat) (v : HostWord), s.ready → k < 256 →
    ∃ t, hostWrite (BitVec.ofNat 12 (0x400 + k)) v s = .next t ∧
      t.blockAt .ctbuf k = v.setWidth 8 ∧ (∀ m, m ≠ k → t.blockAt .ctbuf m = s.blockAt .ctbuf m) ∧
      t = { s with ctbuf := t.ctbuf } ∧
      hostRead (BitVec.ofNat 12 (0x400 + k)) t = BitVec.ofNat 16 (v.toNat % 256) ∧
      ∀ a : HostAddr, a ≠ BitVec.ofNat 12 (0x400 + k) → hostRead a t = hostRead a s

/-- 10_state.md R31 (f), 20_memory.md R52: a host read, in any state, changes nothing of the machine (what it returned
and the script are the host's); an unmapped address and CMD read 0. -/
def Obligations.HostReadsChangeNothing : Prop :=
  (∀ (s : State) (a : HostAddr) (rest : List Action), nextMover s = .host → s.script = .read a :: rest →
    ∃ v, step s = .next { s with
      reads := v :: s.reads, script := rest, schedule := if s.seq.running then s.schedule.tail else s.schedule } ∧
      v = hostRead a s) ∧
  (∀ (s : State) (a : HostAddr),
    a = 0x000 ∨ a = 0x003 ∨ (0x00D ≤ a ∧ a ≤ 0x010) ∨ (0x016 ≤ a ∧ a ≤ 0x018) ∨ (0x01E ≤ a ∧ a ≤ 0x3FF) ∨
      (0x500 ≤ a ∧ a ≤ 0x7FF) ∨ 0x900 ≤ a → hostRead a s = 0)

/-- 10_state.md R29, R30, R20: the STATUS word has BUSY, DONE, FOUND, ERR, FAULT, OVR at bits 0 to 5 and 0 at bits 7:6,
the host reads it at 0x001 and the code of ERRCODE at 0x002. -/
def Obligations.StatusWordLayout : Prop :=
  (∀ f : Status, f.word.getLsbD 0 = f.busy ∧ f.word.getLsbD 1 = f.done ∧ f.word.getLsbD 2 = f.found ∧
    f.word.getLsbD 3 = f.err ∧ f.word.getLsbD 4 = f.fault ∧ f.word.getLsbD 5 = f.ovr ∧
    f.word.getLsbD 6 = false ∧ f.word.getLsbD 7 = false) ∧
  (∀ s : State, hostRead 0x001 s = s.status.word.setWidth 16 ∧
    (s.errcode = .none → hostRead 0x002 s = 0) ∧ (s.errcode = .illegalCmd → hostRead 0x002 s = 1) ∧
    (s.errcode = .badSelector → hostRead 0x002 s = 2) ∧ (s.errcode = .badLength → hostRead 0x002 s = 3) ∧
    (s.errcode = .lengthRange → hostRead 0x002 s = 4) ∧ (s.errcode = .tableFault → hostRead 0x002 s = 8))

/-- 20_memory.md R59 (e): while CBCD runs, a host read of a PTBUF block it writes returns the block's value from before
the command or the value the command writes; in every other case it returns the block. Holds for every choice of the
free value `Config.readSeesNew` (log 6). -/
def Obligations.PtbufReadWhileCbcdRuns : Prop :=
  ∀ (s : State) (k : Nat), k < 256 →
    (s.inProgress .cbcd = true → k < s.regs.ctlen.toNat / 8 →
      hostRead (BitVec.ofNat 12 (0x800 + k)) s = (plainBlock s k).setWidth 16 ∨
      hostRead (BitVec.ofNat 12 (0x800 + k)) s =
        ((Memory.read s.ptOld k).getD (Config.unwrittenBlock s.resets .ptbuf k)).setWidth 16) ∧
    (s.inProgress .cbcd = false ∨ s.regs.ctlen.toNat / 8 ≤ k →
      hostRead (BitVec.ofNat 12 (0x800 + k)) s = (s.blockAt .ptbuf k).setWidth 16)

/-- 10_state.md R22, R23, R26: which steps change the result registers. DOUT changes only at the commit of ENC1, DEC1,
ENC2 or DEC2, RKEY only at the commit of KSCHED or, to 0, at a host write to KEY1, FK1 and FK2 only at the commit of a
search; and at reset. -/
def Obligations.ResultRegisterWriters : Prop :=
  ∀ s t : State, step s = .next t → resetNext s = false →
    (t.regs.dout ≠ s.regs.dout → t.seq = .idle ∧
      (s.inProgress .enc1 ∨ s.inProgress .dec1 ∨ s.inProgress .enc2 ∨ s.inProgress .dec2)) ∧
    (t.regs.rkey ≠ s.regs.rkey → (t.seq = .idle ∧ ∃ sel, s.inProgress (.ksched sel)) ∨
      (t.regs.rkey = 0 ∧ ∃ v, nextWrite s = some (0x004, v))) ∧
    ((t.regs.fk1 ≠ s.regs.fk1 ∨ t.regs.fk2 ≠ s.regs.fk2) → t.seq = .idle ∧
      (s.inProgress .mitm ∨ s.inProgress .brute))

/-- 60_exceptions.md R189: a host write while BUSY = 1 sets OVR and leaves the running command, its inputs and results,
ERR and ERRCODE alone; and OVR, once set, is cleared by no step but CLR's and a reset (the premise that BUSY mirrors
SEQ is part of `Inv`). -/
def Obligations.OverrunIsSticky : Prop :=
  (∀ (s t : State) (a : HostAddr) (v : HostWord), nextWrite s = some (a, v) → s.status.busy = true →
    s.status.fault = false → step s = .next t →
    t = { s with status := { s.status with ovr := true }, script := t.script, schedule := t.schedule }) ∧
  (∀ s t : State, s.status.busy = s.seq.running → step s = .next t → s.status.ovr = true →
    t.status.ovr = false → resetNext s = false →
    s.status.busy = false ∧ s.status.fault = false ∧
    ∃ v : HostWord, nextWrite s = some (0x000, v) ∧ v.setWidth 8 = 0x09#8)

/-- 30_encoding.md R76: WAIT is a read of STATUS that is made again while BUSY reads 1 and at least once. -/
def Obligations.WaitPollsStatus : Prop :=
  ∀ (s : State) (rest : List Action), nextMover s = .host → s.script = .wait :: rest →
    step s = .next { s with
      reads := s.status.word.setWidth 16 :: s.reads
      script := if s.status.busy then .wait :: rest else rest
      schedule := if s.seq.running then s.schedule.tail else s.schedule }

/-- 10_state.md R20, 30_encoding.md R75: the address and the width of every register; the value of a literal, whose
leftmost digit is the most significant; the bus transaction that each line WR, RD, WB, RB and CMD stands for, where its
literal fits its target and its index lies in the buffer; and the actions of a script are those of its lines, in order.
30_encoding.md R76: the expansions of RUN, LDPAIR, LDCT (for a string of 2 N hexadecimal digits) and MOVKEYS. (What
a WB line stands for whose index lies outside the buffer, which LDCT makes for N > 256, is log 20; here it is only said
that LDCT makes that line.) -/
def Obligations.PseudoLinesExpand : Prop :=
  (∀ row ∈ [(Reg.cmd, 0x000#12, 8), (.status, 0x001#12, 8), (.errcode, 0x002#12, 4), (.key1, 0x004#12, 10),
      (.key2, 0x005#12, 10), (.din, 0x006#12, 8), (.dout, 0x007#12, 8), (.rkey, 0x008#12, 8), (.iv, 0x009#12, 8),
      (.ctlen, 0x00A#12, 16), (.fk1, 0x00B#12, 10), (.fk2, 0x00C#12, 10),
      (.p .one, 0x011#12, 8), (.p .two, 0x012#12, 8), (.p .three, 0x013#12, 8), (.p .four, 0x014#12, 8),
      (.p .five, 0x015#12, 8), (.c .one, 0x019#12, 8), (.c .two, 0x01A#12, 8), (.c .three, 0x01B#12, 8),
      (.c .four, 0x01C#12, 8), (.c .five, 0x01D#12, 8)],
    Reg.addr row.1 = row.2.1 ∧ Reg.width row.1 = row.2.2) ∧
  ((∀ n : Nat, (Literal.dec n).value = n) ∧
   (∀ d : Bool, (Literal.bin [d]).value = d.toNat) ∧
   (∀ (ds : List Bool) (d : Bool), ds ≠ [] →
     (Literal.bin (ds ++ [d])).value = 2 * (Literal.bin ds).value + d.toNat) ∧
   (∀ d : Fin 16, (Literal.hex [d]).value = d.val) ∧
   (∀ (ds : List (Fin 16)) (d : Fin 16), ds ≠ [] →
     (Literal.hex (ds ++ [d])).value = 16 * (Literal.hex ds).value + d.val)) ∧
  (∀ (reg : Reg) (lit : Literal), lit.value < 2 ^ reg.width →
    (Line.wr reg lit).actions = [.write reg.addr (BitVec.ofNat 16 lit.value)]) ∧
  (∀ reg : Reg, (Line.rd reg).actions = [.read reg.addr]) ∧
  (∀ i < 256,
    (∀ lit : Literal, lit.value < 2 ^ 8 →
      (Line.wb i lit).actions = [.write (BitVec.ofNat 12 (0x400 + i)) (BitVec.ofNat 16 lit.value)]) ∧
    (Line.rbCtbuf i).actions = [.read (BitVec.ofNat 12 (0x400 + i))] ∧
    (Line.rbPtbuf i).actions = [.read (BitVec.ofNat 12 (0x800 + i))]) ∧
  (∀ i : Instr, i.wf = true → (Line.cmd i).actions = [.write 0x000 ((encode i).setWidth 16)]) ∧
  (scriptActions [] = [] ∧
    (∀ (l : Line) (ls : List Line), scriptActions (l :: ls) = l.actions ++ scriptActions ls) ∧
    (∀ (s : State) (ls : List Line), s.loadScript ls = { s with script := scriptActions ls })) ∧
  Line.wait.actions = [.wait] ∧
  (∀ i : Instr, (Line.run i).actions = (Line.cmd i).actions ++ Line.wait.actions) ∧
  (∀ (n : PairNo) (p c : Literal),
    (Line.ldpair n p c).actions = (Line.wr (.p n) p).actions ++ (Line.wr (.c n) c).actions) ∧
  (∀ (digits : List (Fin 16)) (N : Nat), digits.length = 2 * N →
    (Line.ldct digits).actions.length = N + 1 ∧
    (∀ i < N, (Line.ldct digits).actions[i]? =
      (Line.wb i (.hex [digits.getD (2 * i) 0, digits.getD (2 * i + 1) 0])).actions[0]?) ∧
    (Line.ldct digits).actions[N]? = (Line.wr .ctlen (.dec (8 * N))).actions[0]?) ∧
  Line.movkeys.actions = [.read 0x00B, .writeLast 0x004, .read 0x00C, .writeLast 0x005]

/-! ### Reset -/

/-- 10_state.md R40, 70_reset_and_hazards.md R211: the values after reset under a well-formed TABLES, as a host reads
them, and the sequencer idle. (What R40 leaves unspecified, the buffers and hidden memories and registers, is not
spoken of here; log 3 and log 4.) -/
def Obligations.ResetValues : Prop :=
  ∀ t : Tables, t.wf = true →
    (State.resetWith t).status.word = 0x00 ∧ (State.resetWith t).errcode.code = 0 ∧
    (State.resetWith t).seq = .idle ∧ (State.resetWith t).tables = t ∧
    ∀ r : Reg, hostRead r.addr (State.resetWith t) = 0

/-- 60_exceptions.md R186, 70_reset_and_hazards.md R211: a TABLES that is not well formed gives STATUS 0x10 and ERRCODE
8 at reset, with all other registers 0; and a halted idle core stays as it is under every host write, a command among
them, while a read is answered. -/
def Obligations.IllFormedTablesHaltTheCore : Prop :=
  (∀ t : Tables, t.wf = false →
    (State.resetWith t).status.word = 0x10 ∧ (State.resetWith t).errcode.code = 8 ∧
    (State.resetWith t).seq = .idle ∧
    ∀ r : Reg, r ≠ .status → r ≠ .errcode → hostRead r.addr (State.resetWith t) = 0) ∧
  (∀ (s : State) (a : HostAddr) (v : HostWord) (rest : List Action), s.status.fault = true → s.seq = .idle →
    (s.script = .write a v :: rest → step s = .next { s with script := rest }) ∧
    (s.script = .read a :: rest → step s = .next { s with script := rest, reads := hostRead a s :: s.reads }))

/-- 70_reset_and_hazards.md R210: the reset event, in any state and during any command, ends the episode without a
commit: every register reads its reset value, the sequencer is idle, the self-check is made, and PTBUF blocks a
running CBCD had written keep what was written. -/
def Obligations.ResetEventEndsTheEpisode : Prop :=
  ∀ (s : State) (rest : List Action), nextMover s = .host → s.script = .reset :: rest →
    ∃ t, step s = .next t ∧ t.seq = .idle ∧ t.tables = s.tables ∧ t.script = rest ∧
      t.status = { Status.zero with fault := !s.tables.wf } ∧
      t.errcode = (if s.tables.wf then .none else .tableFault) ∧
      t.regs = Regs.zero ∧
      (∀ ph i j n k b, s.seq = .run .cbcd ph i j n → k < n → Memory.read s.ptbuf k = some b →
        t.blockAt .ptbuf k = b)

/-! ### The invariant -/

/-- The invariant holds after reset, under every TABLES (10_state.md R40). -/
def Obligations.InvariantHoldsAtReset : Prop :=
  (∀ t : Tables, Inv (State.resetWith t)) ∧ Inv State.reset

/-- Every step, whoever takes it, keeps the invariant: the flags fit together and mirror the sequencer, every memory
stays canonical within its size, the sequencer stays at a place of its command with its counters in bounds, FWD, BWD,
CHAIN and PTBUF hold what the command has computed so far, and no scanned pair was in the verified set; and no step
from such a state stops. -/
def Obligations.StepKeepsInvariant : Prop :=
  ∀ s : State, Inv s → ∃ t, step s = .next t ∧ Inv t

/-! ### Runs -/

/-- 70_reset_and_hazards.md R218: from every state of the invariant in which a command runs, whatever the host still
does and however the turns fall, the core is idle again after at most 1024 + 1024 + 2^20 steps beside the turns that the
schedule gives the host (the schedule is the model's, log 2). -/
def Obligations.EveryEpisodeEnds : Prop :=
  ∀ s : State, Inv s → s.seq.running = true →
    ∃ k t, k ≤ s.schedule.count .host + (1024 + 1024 + 2 ^ 20) ∧ runs k s = .next t ∧ t.seq = .idle

/-- 45_key_recovery.md R146, R147, R149: issued to an idle core and left alone, MITM and BRUTE each end with DONE = 1
and ERR = 0 and report the lex-least key pair that re-encrypts all five plaintexts to their ciphertexts, or FOUND = 0
and zero keys exactly when there is none; no other register changes. (That the least pair is reported is SEARCH_ORDER
= lex, log 12.) At least one step is taken, so the command was issued: `t` is not the state it was issued in. -/
def Obligations.SearchesReportTheLeastVerifiedPair : Prop :=
  ∀ (s : State) (i : Instr), Inv s → s.ready → s.script = [] → s.schedule = [] → i = .mitm ∨ i = .brute →
    ∃ k t, 0 < k ∧ k ≤ 1 + (1024 + 1024 + 2 ^ 20) ∧ runs k (s.withFetchWord 8 (encode i).toNat) = .next t ∧
      t.ready ∧ t.status.done = true ∧ t.status.err = false ∧ t.errcode = .none ∧
      t.regs = { s.regs with fk1 := t.regs.fk1, fk2 := t.regs.fk2 } ∧
      SearchReport s.tables s.regs t.status.found t.regs.fk1 t.regs.fk2

/-- 45_key_recovery.md R151: issued in the same state, MITM and BRUTE end having committed the same FOUND, FK1 and FK2,
each the report R146, R147 and R149 ask for; and if the five pairs were made by one key pair, both find one. (That the
pair reported is the least one is SEARCH_ORDER = lex, log 12.) In both runs at least one step is taken, so the command
was issued. -/
def Obligations.MitmAndBruteAgree : Prop :=
  ∀ s : State, Inv s → s.ready → s.script = [] → s.schedule = [] →
    ∃ k k' t t', 0 < k ∧ 0 < k' ∧
      runs k (s.withFetchWord 8 0x06) = .next t ∧ runs k' (s.withFetchWord 8 0x07) = .next t' ∧
      t.ready ∧ t'.ready ∧ t.status.done = true ∧ t'.status.done = true ∧
      t.status.found = t'.status.found ∧ t.regs.fk1 = t'.regs.fk1 ∧ t.regs.fk2 = t'.regs.fk2 ∧
      SearchReport s.tables s.regs t.status.found t.regs.fk1 t.regs.fk2 ∧
      SearchReport s.tables s.regs t'.status.found t'.regs.fk1 t'.regs.fk2 ∧
      ∀ k1 k2 : Key, (∀ n : PairNo, cipherE2 s.tables (s.regs.p.get n) k1 k2 = s.regs.c.get n) →
        t.status.found = true

/-- 46_cbc.md R162, R163: issued to an idle core and left alone, CBCD with a legal length ends with DONE = 1 and ERR = 0;
PTBUF[0] is `D2(CTBUF[0]) ^ IV`, PTBUF[n] is `D2(CTBUF[n]) ^ CTBUF[n-1]`, blocks from N on and all registers and CTBUF
are as before. At least one step is taken, so the command was issued. -/
def Obligations.CbcdDecryptsTheStream : Prop :=
  ∀ s : State, Inv s → s.ready → s.script = [] → s.schedule = [] →
    s.regs.ctlen.toNat % 8 = 0 → s.regs.ctlen.toNat ≤ 2048 →
    ∃ k t, 0 < k ∧ k ≤ 257 ∧ runs k (s.withFetchWord 8 0x08) = .next t ∧
      t.ready ∧ t.status.done = true ∧ t.status.err = false ∧ t.status.found = false ∧ t.errcode = .none ∧
      t.regs = s.regs ∧ (∀ m, t.blockAt .ctbuf m = s.blockAt .ctbuf m) ∧
      (∀ m < s.regs.ctlen.toNat / 8, t.blockAt .ptbuf m =
        cipherD2 s.tables (s.blockAt .ctbuf m) s.regs.key1 s.regs.key2 ^^^
          (if m = 0 then s.regs.iv else s.blockAt .ctbuf (m - 1))) ∧
      (∀ m, s.regs.ctlen.toNat / 8 ≤ m → t.blockAt .ptbuf m = s.blockAt .ptbuf m)

/-- 46_cbc.md R165, of `plainBlock`, the value CBCD writes (CbcdDecryptsTheStream): changing ciphertext block `i`
alone changes plaintext block `i`, changes plaintext block `i+1` by the xor of the old and new block, and no
other; changing the IV alone changes plaintext block 0 alone, by the xor of the two IVs. -/
def Obligations.CbcErrorPropagation : Prop :=
  (∀ (s t : State) (i : Nat), s.tables.wf = true → t.tables = s.tables → t.regs = s.regs →
    (∀ m, m ≠ i → t.blockAt .ctbuf m = s.blockAt .ctbuf m) → t.blockAt .ctbuf i ≠ s.blockAt .ctbuf i →
    plainBlock t i ≠ plainBlock s i ∧
    plainBlock t (i + 1) = plainBlock s (i + 1) ^^^ (s.blockAt .ctbuf i ^^^ t.blockAt .ctbuf i) ∧
    ∀ m, m ≠ i → m ≠ i + 1 → plainBlock t m = plainBlock s m) ∧
  (∀ (s : State) (v : Block),
    plainBlock { s with regs := { s.regs with iv := v } } 0 = plainBlock s 0 ^^^ (s.regs.iv ^^^ v) ∧
    ∀ m, m ≠ 0 → plainBlock { s with regs := { s.regs with iv := v } } m = plainBlock s m)

/-- 10_state.md R37, 60_exceptions.md R189: whatever the host writes and reads while a command runs, and however the
turns fall, short of a reset, the command ends with the same registers, memories, flags (but OVR) and ERRCODE as if
the host had kept away. -/
def Obligations.HostTrafficCannotDisturb : Prop :=
  ∀ s : State, Inv s → s.seq.running = true → Action.reset ∉ s.script →
    ∃ k k' t t', runs k s = .next t ∧ runs k' { s with script := [], schedule := [] } = .next t' ∧
      t.seq = .idle ∧ t'.seq = .idle ∧ (∀ m < k, ∀ u, runs m s = .next u → u.seq.running = true) ∧
      SameResults t' t
end

