-- ==== Sys2Proof/Laws/Cipher.lean ====
section
/-! SUPPORT. The laws of bit vectors that proofs about the cipher rest on (00_scope.md R8,
40_bitvector_permutation.md R90, R92). -/

namespace Sys2Proof.Machine

theorem vecOf_getMsbD (m : Nat) (f : Nat → Bool) (i : Nat) :
    (vecOf m f).getMsbD i = (decide (i < m) && f i) := by
  induction m with
  | zero => simp [vecOf]
  | succ m ih =>
    simp only [vecOf, BitVec.getMsbD_concat, ih]
    rcases Nat.lt_trichotomy i m with h | rfl | h
    · simp [h, Nat.lt_succ_of_lt h]
    · simp
    · simp [Nat.not_lt.2 (Nat.le_of_lt h), show ¬i < m + 1 by omega, show i ≠ m by omega]

/-- The bits of a vector given by a function. -/
theorem bit_vecOf (m : Nat) (f : Nat → Bool) (i : Nat) : bit (vecOf m f) i = (decide (i < m) && f i) :=
  vecOf_getMsbD m f i

/-- Two vectors of one length are equal when every bit is (40_bitvector_permutation.md R91). -/
theorem eq_of_bit_eq {w : Nat} {a b : BitVec w} (h : ∀ i, i < w → bit a i = bit b i) : a = b :=
  BitVec.eq_of_getMsbD_eq h

@[simp] theorem bit_xor {w : Nat} (a b : BitVec w) (i : Nat) : bit (a ^^^ b) i = (bit a i ^^ bit b i) := by
  simp [bit]

/-- The halves of a block put together from two halves (40_bitvector_permutation.md R90). -/
theorem slice_append (a b : Half) : slice (a ++ b : Block) 0 4 = a ∧ slice (a ++ b : Block) 4 4 = b := by
  revert a b
  decide +kernel

/-- A block is its left half before its right half (40_bitvector_permutation.md R90). -/
theorem append_slices (v : Block) : (slice v 0 4 ++ slice v 4 4 : Block) = v := by
  revert v
  decide +kernel

/-- `a ^ (a ^ b) = b` (40_bitvector_permutation.md R92). -/
theorem xor_xor_cancel {w : Nat} (a b : BitVec w) : a ^^^ (a ^^^ b) = b := by
  rw [← BitVec.xor_assoc, BitVec.xor_self, BitVec.zero_xor]

end Sys2Proof.Machine
end

