-- ==== Sys2Proof/Laws/State.lean ====
section
/-! SUPPORT. What each update of the state leaves in each field: one lemma per field and update, so that no later
proof unfolds a record update. -/

namespace Sys2Proof.Machine

/-- The value of NKEYS, for arithmetic. -/
theorem nKeys_eq : Config.nKeys = 1024 := rfl

/-- The value of CBC_BUF_BLOCKS, for arithmetic. -/
theorem cbcBufBlocks_eq : Config.cbcBufBlocks = 256 := rfl

/-! ### State.raiseTableFault -/

@[simp] theorem State.raiseTableFault_tables (s : State) : s.raiseTableFault.tables = s.tables := rfl
@[simp] theorem State.raiseTableFault_regs (s : State) : s.raiseTableFault.regs = s.regs := rfl
@[simp] theorem State.raiseTableFault_status (s : State) :
    s.raiseTableFault.status = { s.status with fault := true } := rfl
@[simp] theorem State.raiseTableFault_errcode (s : State) : s.raiseTableFault.errcode = .tableFault := rfl
@[simp] theorem State.raiseTableFault_seq (s : State) : s.raiseTableFault.seq = s.seq := rfl
@[simp] theorem State.raiseTableFault_ctbuf (s : State) : s.raiseTableFault.ctbuf = s.ctbuf := rfl
@[simp] theorem State.raiseTableFault_ptbuf (s : State) : s.raiseTableFault.ptbuf = s.ptbuf := rfl
@[simp] theorem State.raiseTableFault_fwd (s : State) : s.raiseTableFault.fwd = s.fwd := rfl
@[simp] theorem State.raiseTableFault_bwd (s : State) : s.raiseTableFault.bwd = s.bwd := rfl
@[simp] theorem State.raiseTableFault_chain (s : State) : s.raiseTableFault.chain = s.chain := rfl
@[simp] theorem State.raiseTableFault_latch (s : State) : s.raiseTableFault.latch = s.latch := rfl
@[simp] theorem State.raiseTableFault_ptOld (s : State) : s.raiseTableFault.ptOld = s.ptOld := rfl
@[simp] theorem State.raiseTableFault_script (s : State) : s.raiseTableFault.script = s.script := rfl
@[simp] theorem State.raiseTableFault_schedule (s : State) : s.raiseTableFault.schedule = s.schedule := rfl
@[simp] theorem State.raiseTableFault_reads (s : State) : s.raiseTableFault.reads = s.reads := rfl
@[simp] theorem State.raiseTableFault_resets (s : State) : s.raiseTableFault.resets = s.resets := rfl

/-! ### State.noteOverrun -/

@[simp] theorem State.noteOverrun_tables (s : State) : s.noteOverrun.tables = s.tables := rfl
@[simp] theorem State.noteOverrun_regs (s : State) : s.noteOverrun.regs = s.regs := rfl
@[simp] theorem State.noteOverrun_status (s : State) : s.noteOverrun.status = s.status.overrun := rfl
@[simp] theorem State.noteOverrun_errcode (s : State) : s.noteOverrun.errcode = s.errcode := rfl
@[simp] theorem State.noteOverrun_seq (s : State) : s.noteOverrun.seq = s.seq := rfl
@[simp] theorem State.noteOverrun_ctbuf (s : State) : s.noteOverrun.ctbuf = s.ctbuf := rfl
@[simp] theorem State.noteOverrun_ptbuf (s : State) : s.noteOverrun.ptbuf = s.ptbuf := rfl
@[simp] theorem State.noteOverrun_fwd (s : State) : s.noteOverrun.fwd = s.fwd := rfl
@[simp] theorem State.noteOverrun_bwd (s : State) : s.noteOverrun.bwd = s.bwd := rfl
@[simp] theorem State.noteOverrun_chain (s : State) : s.noteOverrun.chain = s.chain := rfl
@[simp] theorem State.noteOverrun_latch (s : State) : s.noteOverrun.latch = s.latch := rfl
@[simp] theorem State.noteOverrun_ptOld (s : State) : s.noteOverrun.ptOld = s.ptOld := rfl
@[simp] theorem State.noteOverrun_script (s : State) : s.noteOverrun.script = s.script := rfl
@[simp] theorem State.noteOverrun_schedule (s : State) : s.noteOverrun.schedule = s.schedule := rfl
@[simp] theorem State.noteOverrun_reads (s : State) : s.noteOverrun.reads = s.reads := rfl
@[simp] theorem State.noteOverrun_resets (s : State) : s.noteOverrun.resets = s.resets := rfl

/-! ### State.openEpisode -/

@[simp] theorem State.openEpisode_tables (s : State) : s.openEpisode.tables = s.tables := rfl
@[simp] theorem State.openEpisode_regs (s : State) : s.openEpisode.regs = s.regs := rfl
@[simp] theorem State.openEpisode_status (s : State) : s.openEpisode.status = s.status.opened := rfl
@[simp] theorem State.openEpisode_errcode (s : State) : s.openEpisode.errcode = .none := rfl
@[simp] theorem State.openEpisode_seq (s : State) : s.openEpisode.seq = s.seq := rfl
@[simp] theorem State.openEpisode_ctbuf (s : State) : s.openEpisode.ctbuf = s.ctbuf := rfl
@[simp] theorem State.openEpisode_ptbuf (s : State) : s.openEpisode.ptbuf = s.ptbuf := rfl
@[simp] theorem State.openEpisode_fwd (s : State) : s.openEpisode.fwd = s.fwd := rfl
@[simp] theorem State.openEpisode_bwd (s : State) : s.openEpisode.bwd = s.bwd := rfl
@[simp] theorem State.openEpisode_chain (s : State) : s.openEpisode.chain = s.chain := rfl
@[simp] theorem State.openEpisode_latch (s : State) : s.openEpisode.latch = s.latch := rfl
@[simp] theorem State.openEpisode_ptOld (s : State) : s.openEpisode.ptOld = s.ptOld := rfl
@[simp] theorem State.openEpisode_script (s : State) : s.openEpisode.script = s.script := rfl
@[simp] theorem State.openEpisode_schedule (s : State) : s.openEpisode.schedule = s.schedule := rfl
@[simp] theorem State.openEpisode_reads (s : State) : s.openEpisode.reads = s.reads := rfl
@[simp] theorem State.openEpisode_resets (s : State) : s.openEpisode.resets = s.resets := rfl

/-! ### State.raiseError -/

@[simp] theorem State.raiseError_tables (s : State) (e : ErrCode) : (s.raiseError e).tables = s.tables := rfl
@[simp] theorem State.raiseError_regs (s : State) (e : ErrCode) : (s.raiseError e).regs = s.regs := rfl
@[simp] theorem State.raiseError_status (s : State) (e : ErrCode) : (s.raiseError e).status = s.status.rejected := rfl
@[simp] theorem State.raiseError_errcode (s : State) (e : ErrCode) : (s.raiseError e).errcode = e := rfl
@[simp] theorem State.raiseError_seq (s : State) (e : ErrCode) : (s.raiseError e).seq = s.seq := rfl
@[simp] theorem State.raiseError_ctbuf (s : State) (e : ErrCode) : (s.raiseError e).ctbuf = s.ctbuf := rfl
@[simp] theorem State.raiseError_ptbuf (s : State) (e : ErrCode) : (s.raiseError e).ptbuf = s.ptbuf := rfl
@[simp] theorem State.raiseError_fwd (s : State) (e : ErrCode) : (s.raiseError e).fwd = s.fwd := rfl
@[simp] theorem State.raiseError_bwd (s : State) (e : ErrCode) : (s.raiseError e).bwd = s.bwd := rfl
@[simp] theorem State.raiseError_chain (s : State) (e : ErrCode) : (s.raiseError e).chain = s.chain := rfl
@[simp] theorem State.raiseError_latch (s : State) (e : ErrCode) : (s.raiseError e).latch = s.latch := rfl
@[simp] theorem State.raiseError_ptOld (s : State) (e : ErrCode) : (s.raiseError e).ptOld = s.ptOld := rfl
@[simp] theorem State.raiseError_script (s : State) (e : ErrCode) : (s.raiseError e).script = s.script := rfl
@[simp] theorem State.raiseError_schedule (s : State) (e : ErrCode) : (s.raiseError e).schedule = s.schedule := rfl
@[simp] theorem State.raiseError_reads (s : State) (e : ErrCode) : (s.raiseError e).reads = s.reads := rfl
@[simp] theorem State.raiseError_resets (s : State) (e : ErrCode) : (s.raiseError e).resets = s.resets := rfl

/-! ### State.acknowledge -/

@[simp] theorem State.acknowledge_tables (s : State) : s.acknowledge.tables = s.tables := rfl
@[simp] theorem State.acknowledge_regs (s : State) : s.acknowledge.regs = s.regs := rfl
@[simp] theorem State.acknowledge_status (s : State) : s.acknowledge.status = s.status.acknowledged := rfl
@[simp] theorem State.acknowledge_errcode (s : State) : s.acknowledge.errcode = .none := rfl
@[simp] theorem State.acknowledge_seq (s : State) : s.acknowledge.seq = s.seq := rfl
@[simp] theorem State.acknowledge_ctbuf (s : State) : s.acknowledge.ctbuf = s.ctbuf := rfl
@[simp] theorem State.acknowledge_ptbuf (s : State) : s.acknowledge.ptbuf = s.ptbuf := rfl
@[simp] theorem State.acknowledge_fwd (s : State) : s.acknowledge.fwd = s.fwd := rfl
@[simp] theorem State.acknowledge_bwd (s : State) : s.acknowledge.bwd = s.bwd := rfl
@[simp] theorem State.acknowledge_chain (s : State) : s.acknowledge.chain = s.chain := rfl
@[simp] theorem State.acknowledge_latch (s : State) : s.acknowledge.latch = s.latch := rfl
@[simp] theorem State.acknowledge_ptOld (s : State) : s.acknowledge.ptOld = s.ptOld := rfl
@[simp] theorem State.acknowledge_script (s : State) : s.acknowledge.script = s.script := rfl
@[simp] theorem State.acknowledge_schedule (s : State) : s.acknowledge.schedule = s.schedule := rfl
@[simp] theorem State.acknowledge_reads (s : State) : s.acknowledge.reads = s.reads := rfl
@[simp] theorem State.acknowledge_resets (s : State) : s.acknowledge.resets = s.resets := rfl

/-! ### State.startRun -/

@[simp] theorem State.startRun_tables (s : State) (op : Instr) (ph : Phase) :
    (s.startRun op ph).tables = s.tables := rfl
@[simp] theorem State.startRun_regs (s : State) (op : Instr) (ph : Phase) : (s.startRun op ph).regs = s.regs := rfl
@[simp] theorem State.startRun_status (s : State) (op : Instr) (ph : Phase) :
    (s.startRun op ph).status = s.status.started := rfl
@[simp] theorem State.startRun_errcode (s : State) (op : Instr) (ph : Phase) :
    (s.startRun op ph).errcode = s.errcode := rfl
@[simp] theorem State.startRun_seq (s : State) (op : Instr) (ph : Phase) :
    (s.startRun op ph).seq = .run op ph 0 0 0 := rfl
@[simp] theorem State.startRun_ctbuf (s : State) (op : Instr) (ph : Phase) : (s.startRun op ph).ctbuf = s.ctbuf := rfl
@[simp] theorem State.startRun_ptbuf (s : State) (op : Instr) (ph : Phase) : (s.startRun op ph).ptbuf = s.ptbuf := rfl
@[simp] theorem State.startRun_fwd (s : State) (op : Instr) (ph : Phase) : (s.startRun op ph).fwd = s.fwd := rfl
@[simp] theorem State.startRun_bwd (s : State) (op : Instr) (ph : Phase) : (s.startRun op ph).bwd = s.bwd := rfl
@[simp] theorem State.startRun_chain (s : State) (op : Instr) (ph : Phase) : (s.startRun op ph).chain = s.chain := rfl
@[simp] theorem State.startRun_latch (s : State) (op : Instr) (ph : Phase) : (s.startRun op ph).latch = s.latch := rfl
@[simp] theorem State.startRun_ptOld (s : State) (op : Instr) (ph : Phase) : (s.startRun op ph).ptOld = s.ptOld := rfl
@[simp] theorem State.startRun_script (s : State) (op : Instr) (ph : Phase) :
    (s.startRun op ph).script = s.script := rfl
@[simp] theorem State.startRun_schedule (s : State) (op : Instr) (ph : Phase) :
    (s.startRun op ph).schedule = s.schedule := rfl
@[simp] theorem State.startRun_reads (s : State) (op : Instr) (ph : Phase) : (s.startRun op ph).reads = s.reads := rfl
@[simp] theorem State.startRun_resets (s : State) (op : Instr) (ph : Phase) :
    (s.startRun op ph).resets = s.resets := rfl

/-! ### State.commit -/

@[simp] theorem State.commit_tables (s : State) : s.commit.tables = s.tables := rfl
@[simp] theorem State.commit_regs (s : State) : s.commit.regs = s.latch.intoRegs s.regs := rfl
@[simp] theorem State.commit_status (s : State) : s.commit.status = s.status.committed s.latch.search := rfl
@[simp] theorem State.commit_errcode (s : State) : s.commit.errcode = s.errcode := rfl
@[simp] theorem State.commit_seq (s : State) : s.commit.seq = .idle := rfl
@[simp] theorem State.commit_ctbuf (s : State) : s.commit.ctbuf = s.ctbuf := rfl
@[simp] theorem State.commit_ptbuf (s : State) : s.commit.ptbuf = s.ptbuf := rfl
@[simp] theorem State.commit_fwd (s : State) : s.commit.fwd = s.fwd := rfl
@[simp] theorem State.commit_bwd (s : State) : s.commit.bwd = s.bwd := rfl
@[simp] theorem State.commit_chain (s : State) : s.commit.chain = s.chain := rfl
@[simp] theorem State.commit_latch (s : State) : s.commit.latch = s.latch := rfl
@[simp] theorem State.commit_ptOld (s : State) : s.commit.ptOld = s.ptOld := rfl
@[simp] theorem State.commit_script (s : State) : s.commit.script = s.script := rfl
@[simp] theorem State.commit_schedule (s : State) : s.commit.schedule = s.schedule := rfl
@[simp] theorem State.commit_reads (s : State) : s.commit.reads = s.reads := rfl
@[simp] theorem State.commit_resets (s : State) : s.commit.resets = s.resets := rfl

/-! ### State.finish -/

@[simp] theorem State.finish_tables (s : State) (l : Latch) : (s.finish l).tables = s.tables := rfl
@[simp] theorem State.finish_regs (s : State) (l : Latch) : (s.finish l).regs = l.intoRegs s.regs := rfl
@[simp] theorem State.finish_status (s : State) (l : Latch) : (s.finish l).status = s.status.committed l.search := rfl
@[simp] theorem State.finish_errcode (s : State) (l : Latch) : (s.finish l).errcode = s.errcode := rfl
@[simp] theorem State.finish_seq (s : State) (l : Latch) : (s.finish l).seq = .idle := rfl
@[simp] theorem State.finish_ctbuf (s : State) (l : Latch) : (s.finish l).ctbuf = s.ctbuf := rfl
@[simp] theorem State.finish_ptbuf (s : State) (l : Latch) : (s.finish l).ptbuf = s.ptbuf := rfl
@[simp] theorem State.finish_fwd (s : State) (l : Latch) : (s.finish l).fwd = s.fwd := rfl
@[simp] theorem State.finish_bwd (s : State) (l : Latch) : (s.finish l).bwd = s.bwd := rfl
@[simp] theorem State.finish_chain (s : State) (l : Latch) : (s.finish l).chain = s.chain := rfl
@[simp] theorem State.finish_latch (s : State) (l : Latch) : (s.finish l).latch = l := rfl
@[simp] theorem State.finish_ptOld (s : State) (l : Latch) : (s.finish l).ptOld = s.ptOld := rfl
@[simp] theorem State.finish_script (s : State) (l : Latch) : (s.finish l).script = s.script := rfl
@[simp] theorem State.finish_schedule (s : State) (l : Latch) : (s.finish l).schedule = s.schedule := rfl
@[simp] theorem State.finish_reads (s : State) (l : Latch) : (s.finish l).reads = s.reads := rfl
@[simp] theorem State.finish_resets (s : State) (l : Latch) : (s.finish l).resets = s.resets := rfl

/-! ### State.moveTo -/

@[simp] theorem State.moveTo_tables (s : State) (op : Instr) (ph : Phase) (i j n : Nat) :
    (s.moveTo op ph i j n).tables = s.tables := rfl
@[simp] theorem State.moveTo_regs (s : State) (op : Instr) (ph : Phase) (i j n : Nat) :
    (s.moveTo op ph i j n).regs = s.regs := rfl
@[simp] theorem State.moveTo_status (s : State) (op : Instr) (ph : Phase) (i j n : Nat) :
    (s.moveTo op ph i j n).status = s.status := rfl
@[simp] theorem State.moveTo_errcode (s : State) (op : Instr) (ph : Phase) (i j n : Nat) :
    (s.moveTo op ph i j n).errcode = s.errcode := rfl
@[simp] theorem State.moveTo_seq (s : State) (op : Instr) (ph : Phase) (i j n : Nat) :
    (s.moveTo op ph i j n).seq = .run op ph i j n := rfl
@[simp] theorem State.moveTo_ctbuf (s : State) (op : Instr) (ph : Phase) (i j n : Nat) :
    (s.moveTo op ph i j n).ctbuf = s.ctbuf := rfl
@[simp] theorem State.moveTo_ptbuf (s : State) (op : Instr) (ph : Phase) (i j n : Nat) :
    (s.moveTo op ph i j n).ptbuf = s.ptbuf := rfl
@[simp] theorem State.moveTo_fwd (s : State) (op : Instr) (ph : Phase) (i j n : Nat) :
    (s.moveTo op ph i j n).fwd = s.fwd := rfl
@[simp] theorem State.moveTo_bwd (s : State) (op : Instr) (ph : Phase) (i j n : Nat) :
    (s.moveTo op ph i j n).bwd = s.bwd := rfl
@[simp] theorem State.moveTo_chain (s : State) (op : Instr) (ph : Phase) (i j n : Nat) :
    (s.moveTo op ph i j n).chain = s.chain := rfl
@[simp] theorem State.moveTo_latch (s : State) (op : Instr) (ph : Phase) (i j n : Nat) :
    (s.moveTo op ph i j n).latch = s.latch := rfl
@[simp] theorem State.moveTo_ptOld (s : State) (op : Instr) (ph : Phase) (i j n : Nat) :
    (s.moveTo op ph i j n).ptOld = s.ptOld := rfl
@[simp] theorem State.moveTo_script (s : State) (op : Instr) (ph : Phase) (i j n : Nat) :
    (s.moveTo op ph i j n).script = s.script := rfl
@[simp] theorem State.moveTo_schedule (s : State) (op : Instr) (ph : Phase) (i j n : Nat) :
    (s.moveTo op ph i j n).schedule = s.schedule := rfl
@[simp] theorem State.moveTo_reads (s : State) (op : Instr) (ph : Phase) (i j n : Nat) :
    (s.moveTo op ph i j n).reads = s.reads := rfl
@[simp] theorem State.moveTo_resets (s : State) (op : Instr) (ph : Phase) (i j n : Nat) :
    (s.moveTo op ph i j n).resets = s.resets := rfl

/-! ### State.writeReg -/

@[simp] theorem State.writeReg_tables (s : State) (r : Reg) (v : HostWord) : (s.writeReg r v).tables = s.tables := rfl
@[simp] theorem State.writeReg_regs (s : State) (r : Reg) (v : HostWord) :
    (s.writeReg r v).regs = s.regs.write r v := rfl
@[simp] theorem State.writeReg_status (s : State) (r : Reg) (v : HostWord) : (s.writeReg r v).status = s.status := rfl
@[simp] theorem State.writeReg_errcode (s : State) (r : Reg) (v : HostWord) :
    (s.writeReg r v).errcode = s.errcode := rfl
@[simp] theorem State.writeReg_seq (s : State) (r : Reg) (v : HostWord) : (s.writeReg r v).seq = s.seq := rfl
@[simp] theorem State.writeReg_ctbuf (s : State) (r : Reg) (v : HostWord) : (s.writeReg r v).ctbuf = s.ctbuf := rfl
@[simp] theorem State.writeReg_ptbuf (s : State) (r : Reg) (v : HostWord) : (s.writeReg r v).ptbuf = s.ptbuf := rfl
@[simp] theorem State.writeReg_fwd (s : State) (r : Reg) (v : HostWord) : (s.writeReg r v).fwd = s.fwd := rfl
@[simp] theorem State.writeReg_bwd (s : State) (r : Reg) (v : HostWord) : (s.writeReg r v).bwd = s.bwd := rfl
@[simp] theorem State.writeReg_chain (s : State) (r : Reg) (v : HostWord) : (s.writeReg r v).chain = s.chain := rfl
@[simp] theorem State.writeReg_latch (s : State) (r : Reg) (v : HostWord) : (s.writeReg r v).latch = s.latch := rfl
@[simp] theorem State.writeReg_ptOld (s : State) (r : Reg) (v : HostWord) : (s.writeReg r v).ptOld = s.ptOld := rfl
@[simp] theorem State.writeReg_script (s : State) (r : Reg) (v : HostWord) : (s.writeReg r v).script = s.script := rfl
@[simp] theorem State.writeReg_schedule (s : State) (r : Reg) (v : HostWord) :
    (s.writeReg r v).schedule = s.schedule := rfl
@[simp] theorem State.writeReg_reads (s : State) (r : Reg) (v : HostWord) : (s.writeReg r v).reads = s.reads := rfl
@[simp] theorem State.writeReg_resets (s : State) (r : Reg) (v : HostWord) : (s.writeReg r v).resets = s.resets := rfl

/-! ### State.recordRead -/

@[simp] theorem State.recordRead_tables (s : State) (a : HostAddr) : (s.recordRead a).tables = s.tables := rfl
@[simp] theorem State.recordRead_regs (s : State) (a : HostAddr) : (s.recordRead a).regs = s.regs := rfl
@[simp] theorem State.recordRead_status (s : State) (a : HostAddr) : (s.recordRead a).status = s.status := rfl
@[simp] theorem State.recordRead_errcode (s : State) (a : HostAddr) : (s.recordRead a).errcode = s.errcode := rfl
@[simp] theorem State.recordRead_seq (s : State) (a : HostAddr) : (s.recordRead a).seq = s.seq := rfl
@[simp] theorem State.recordRead_ctbuf (s : State) (a : HostAddr) : (s.recordRead a).ctbuf = s.ctbuf := rfl
@[simp] theorem State.recordRead_ptbuf (s : State) (a : HostAddr) : (s.recordRead a).ptbuf = s.ptbuf := rfl
@[simp] theorem State.recordRead_fwd (s : State) (a : HostAddr) : (s.recordRead a).fwd = s.fwd := rfl
@[simp] theorem State.recordRead_bwd (s : State) (a : HostAddr) : (s.recordRead a).bwd = s.bwd := rfl
@[simp] theorem State.recordRead_chain (s : State) (a : HostAddr) : (s.recordRead a).chain = s.chain := rfl
@[simp] theorem State.recordRead_latch (s : State) (a : HostAddr) : (s.recordRead a).latch = s.latch := rfl
@[simp] theorem State.recordRead_ptOld (s : State) (a : HostAddr) : (s.recordRead a).ptOld = s.ptOld := rfl
@[simp] theorem State.recordRead_script (s : State) (a : HostAddr) : (s.recordRead a).script = s.script := rfl
@[simp] theorem State.recordRead_schedule (s : State) (a : HostAddr) : (s.recordRead a).schedule = s.schedule := rfl
@[simp] theorem State.recordRead_reads (s : State) (a : HostAddr) :
    (s.recordRead a).reads = hostRead a s :: s.reads := rfl
@[simp] theorem State.recordRead_resets (s : State) (a : HostAddr) : (s.recordRead a).resets = s.resets := rfl

/-! ### State.withScript -/

@[simp] theorem State.withScript_tables (s : State) (rest : List Action) :
    (s.withScript rest).tables = s.tables := rfl
@[simp] theorem State.withScript_regs (s : State) (rest : List Action) : (s.withScript rest).regs = s.regs := rfl
@[simp] theorem State.withScript_status (s : State) (rest : List Action) :
    (s.withScript rest).status = s.status := rfl
@[simp] theorem State.withScript_errcode (s : State) (rest : List Action) :
    (s.withScript rest).errcode = s.errcode := rfl
@[simp] theorem State.withScript_seq (s : State) (rest : List Action) : (s.withScript rest).seq = s.seq := rfl
@[simp] theorem State.withScript_ctbuf (s : State) (rest : List Action) : (s.withScript rest).ctbuf = s.ctbuf := rfl
@[simp] theorem State.withScript_ptbuf (s : State) (rest : List Action) : (s.withScript rest).ptbuf = s.ptbuf := rfl
@[simp] theorem State.withScript_fwd (s : State) (rest : List Action) : (s.withScript rest).fwd = s.fwd := rfl
@[simp] theorem State.withScript_bwd (s : State) (rest : List Action) : (s.withScript rest).bwd = s.bwd := rfl
@[simp] theorem State.withScript_chain (s : State) (rest : List Action) : (s.withScript rest).chain = s.chain := rfl
@[simp] theorem State.withScript_latch (s : State) (rest : List Action) : (s.withScript rest).latch = s.latch := rfl
@[simp] theorem State.withScript_ptOld (s : State) (rest : List Action) : (s.withScript rest).ptOld = s.ptOld := rfl
@[simp] theorem State.withScript_script (s : State) (rest : List Action) : (s.withScript rest).script = rest := rfl
@[simp] theorem State.withScript_schedule (s : State) (rest : List Action) :
    (s.withScript rest).schedule = s.schedule := rfl
@[simp] theorem State.withScript_reads (s : State) (rest : List Action) : (s.withScript rest).reads = s.reads := rfl
@[simp] theorem State.withScript_resets (s : State) (rest : List Action) :
    (s.withScript rest).resets = s.resets := rfl

/-! ### State.takeTurn -/

@[simp] theorem State.takeTurn_tables (s : State) : s.takeTurn.tables = s.tables :=
    by unfold State.takeTurn; split <;> rfl
@[simp] theorem State.takeTurn_regs (s : State) : s.takeTurn.regs = s.regs := by unfold State.takeTurn; split <;> rfl
@[simp] theorem State.takeTurn_status (s : State) : s.takeTurn.status = s.status :=
    by unfold State.takeTurn; split <;> rfl
@[simp] theorem State.takeTurn_errcode (s : State) : s.takeTurn.errcode = s.errcode :=
    by unfold State.takeTurn; split <;> rfl
@[simp] theorem State.takeTurn_seq (s : State) : s.takeTurn.seq = s.seq := by unfold State.takeTurn; split <;> rfl
@[simp] theorem State.takeTurn_ctbuf (s : State) : s.takeTurn.ctbuf = s.ctbuf :=
    by unfold State.takeTurn; split <;> rfl
@[simp] theorem State.takeTurn_ptbuf (s : State) : s.takeTurn.ptbuf = s.ptbuf :=
    by unfold State.takeTurn; split <;> rfl
@[simp] theorem State.takeTurn_fwd (s : State) : s.takeTurn.fwd = s.fwd := by unfold State.takeTurn; split <;> rfl
@[simp] theorem State.takeTurn_bwd (s : State) : s.takeTurn.bwd = s.bwd := by unfold State.takeTurn; split <;> rfl
@[simp] theorem State.takeTurn_chain (s : State) : s.takeTurn.chain = s.chain :=
    by unfold State.takeTurn; split <;> rfl
@[simp] theorem State.takeTurn_latch (s : State) : s.takeTurn.latch = s.latch :=
    by unfold State.takeTurn; split <;> rfl
@[simp] theorem State.takeTurn_ptOld (s : State) : s.takeTurn.ptOld = s.ptOld :=
    by unfold State.takeTurn; split <;> rfl
@[simp] theorem State.takeTurn_script (s : State) : s.takeTurn.script = s.script :=
    by unfold State.takeTurn; split <;> rfl
@[simp] theorem State.takeTurn_reads (s : State) : s.takeTurn.reads = s.reads :=
    by unfold State.takeTurn; split <;> rfl
@[simp] theorem State.takeTurn_resets (s : State) : s.takeTurn.resets = s.resets :=
    by unfold State.takeTurn; split <;> rfl

/-! ### State.storeBlock -/

@[simp] theorem State.storeBlock_tables (s : State) (sp : Space) (k : Nat) (b : Block) :
    (s.storeBlock sp k b).tables = s.tables := by cases sp <;> rfl
@[simp] theorem State.storeBlock_regs (s : State) (sp : Space) (k : Nat) (b : Block) :
    (s.storeBlock sp k b).regs = s.regs := by cases sp <;> rfl
@[simp] theorem State.storeBlock_status (s : State) (sp : Space) (k : Nat) (b : Block) :
    (s.storeBlock sp k b).status = s.status := by cases sp <;> rfl
@[simp] theorem State.storeBlock_errcode (s : State) (sp : Space) (k : Nat) (b : Block) :
    (s.storeBlock sp k b).errcode = s.errcode := by cases sp <;> rfl
@[simp] theorem State.storeBlock_seq (s : State) (sp : Space) (k : Nat) (b : Block) :
    (s.storeBlock sp k b).seq = s.seq := by cases sp <;> rfl
@[simp] theorem State.storeBlock_chain (s : State) (sp : Space) (k : Nat) (b : Block) :
    (s.storeBlock sp k b).chain = s.chain := by cases sp <;> rfl
@[simp] theorem State.storeBlock_latch (s : State) (sp : Space) (k : Nat) (b : Block) :
    (s.storeBlock sp k b).latch = s.latch := by cases sp <;> rfl
@[simp] theorem State.storeBlock_ptOld (s : State) (sp : Space) (k : Nat) (b : Block) :
    (s.storeBlock sp k b).ptOld = s.ptOld := by cases sp <;> rfl
@[simp] theorem State.storeBlock_script (s : State) (sp : Space) (k : Nat) (b : Block) :
    (s.storeBlock sp k b).script = s.script := by cases sp <;> rfl
@[simp] theorem State.storeBlock_schedule (s : State) (sp : Space) (k : Nat) (b : Block) :
    (s.storeBlock sp k b).schedule = s.schedule := by cases sp <;> rfl
@[simp] theorem State.storeBlock_reads (s : State) (sp : Space) (k : Nat) (b : Block) :
    (s.storeBlock sp k b).reads = s.reads := by cases sp <;> rfl
@[simp] theorem State.storeBlock_resets (s : State) (sp : Space) (k : Nat) (b : Block) :
    (s.storeBlock sp k b).resets = s.resets := by cases sp <;> rfl

/-! ### Updates of a memory -/

@[simp] theorem State.storeBlock_mem (s : State) (sp : Space) (k : Nat) (b : Block) :
    (s.storeBlock sp k b).mem sp = Memory.write (s.mem sp) k b := by cases sp <;> rfl

theorem State.storeBlock_mem_ne (s : State) (sp sp' : Space) (k : Nat) (b : Block) (h : sp' ≠ sp) :
    (s.storeBlock sp k b).mem sp' = s.mem sp' := by
  cases sp <;> cases sp' <;> first | rfl | exact absurd rfl h

/-- Two states with the same memory of a space and the same number of resets hold the same blocks there. -/
theorem State.blockAt_congr {s t : State} {sp : Space} (hm : t.mem sp = s.mem sp) (hr : t.resets = s.resets)
    (k : Nat) : t.blockAt sp k = s.blockAt sp k := by
  simp [State.blockAt, hm, hr]

/-! ### The flags -/

@[simp] theorem Status.opened_busy (f : Status) : f.opened.busy = f.busy := rfl
@[simp] theorem Status.opened_done (f : Status) : f.opened.done = false := rfl
@[simp] theorem Status.opened_found (f : Status) : f.opened.found = false := rfl
@[simp] theorem Status.opened_err (f : Status) : f.opened.err = false := rfl
@[simp] theorem Status.opened_fault (f : Status) : f.opened.fault = f.fault := rfl
@[simp] theorem Status.opened_ovr (f : Status) : f.opened.ovr = f.ovr := rfl
@[simp] theorem Status.started_busy (f : Status) : f.started.busy = true := rfl
@[simp] theorem Status.started_done (f : Status) : f.started.done = f.done := rfl
@[simp] theorem Status.started_found (f : Status) : f.started.found = f.found := rfl
@[simp] theorem Status.started_err (f : Status) : f.started.err = f.err := rfl
@[simp] theorem Status.started_fault (f : Status) : f.started.fault = f.fault := rfl
@[simp] theorem Status.started_ovr (f : Status) : f.started.ovr = f.ovr := rfl
@[simp] theorem Status.rejected_busy (f : Status) : f.rejected.busy = f.busy := rfl
@[simp] theorem Status.rejected_done (f : Status) : f.rejected.done = true := rfl
@[simp] theorem Status.rejected_found (f : Status) : f.rejected.found = f.found := rfl
@[simp] theorem Status.rejected_err (f : Status) : f.rejected.err = true := rfl
@[simp] theorem Status.rejected_fault (f : Status) : f.rejected.fault = f.fault := rfl
@[simp] theorem Status.rejected_ovr (f : Status) : f.rejected.ovr = f.ovr := rfl
@[simp] theorem Status.committed_busy (f : Status) (r : Option Bool) : (f.committed r).busy = false := rfl
@[simp] theorem Status.committed_done (f : Status) (r : Option Bool) : (f.committed r).done = true := rfl
@[simp] theorem Status.committed_found (f : Status) (r : Option Bool) : (f.committed r).found = r.getD f.found := rfl
@[simp] theorem Status.committed_err (f : Status) (r : Option Bool) : (f.committed r).err = f.err := rfl
@[simp] theorem Status.committed_fault (f : Status) (r : Option Bool) : (f.committed r).fault = f.fault := rfl
@[simp] theorem Status.committed_ovr (f : Status) (r : Option Bool) : (f.committed r).ovr = f.ovr := rfl
@[simp] theorem Status.acknowledged_busy (f : Status) : f.acknowledged.busy = f.busy := rfl
@[simp] theorem Status.acknowledged_done (f : Status) : f.acknowledged.done = false := rfl
@[simp] theorem Status.acknowledged_found (f : Status) : f.acknowledged.found = false := rfl
@[simp] theorem Status.acknowledged_err (f : Status) : f.acknowledged.err = false := rfl
@[simp] theorem Status.acknowledged_fault (f : Status) : f.acknowledged.fault = f.fault := rfl
@[simp] theorem Status.acknowledged_ovr (f : Status) : f.acknowledged.ovr = false := rfl
@[simp] theorem Status.overrun_busy (f : Status) : f.overrun.busy = f.busy := rfl
@[simp] theorem Status.overrun_done (f : Status) : f.overrun.done = f.done := rfl
@[simp] theorem Status.overrun_found (f : Status) : f.overrun.found = f.found := rfl
@[simp] theorem Status.overrun_err (f : Status) : f.overrun.err = f.err := rfl
@[simp] theorem Status.overrun_fault (f : Status) : f.overrun.fault = f.fault := rfl
@[simp] theorem Status.overrun_ovr (f : Status) : f.overrun.ovr = true := rfl

end Sys2Proof.Machine
end

