-- ==== Sys2Proof/Laws/Memory.lean ====
section
/-! SUPPORT. The laws of a block memory: reading what was written, and the canonical form kept by every operation. -/

namespace Sys2Proof.Machine

@[simp] theorem Memory.read_nil (a : Nat) : Memory.read [] a = none := rfl

theorem Memory.read_write_same (m : Memory) (a : Nat) (v : Block) :
    Memory.read (Memory.write m a v) a = some v := by
  induction m with
  | nil => simp [Memory.write, Memory.read]
  | cons cell rest ih =>
    obtain ⟨k, b⟩ := cell
    simp only [Memory.write]
    split
    · simp [Memory.read]
    · split
      · simp [Memory.read]
      · simp [Memory.read, *]

theorem Memory.read_write_other (m : Memory) {a a' : Nat} (v : Block) (h : a' ≠ a) :
    Memory.read (Memory.write m a v) a' = Memory.read m a' := by
  induction m with
  | nil => simp [Memory.write, Memory.read, h]
  | cons cell rest ih =>
    obtain ⟨k, b⟩ := cell
    simp only [Memory.write]
    split
    · simp [Memory.read, h]
    · split
      · next hk => subst hk; simp [Memory.read, h]
      · simp [Memory.read, ih]

theorem Memory.wfFrom_mono {size lo lo' : Nat} {m : Memory} (hlo : lo' ≤ lo)
    (h : Memory.wfFrom size lo m = true) : Memory.wfFrom size lo' m = true := by
  cases m with
  | nil => rfl
  | cons cell rest =>
    obtain ⟨k, b⟩ := cell
    simp only [Memory.wfFrom, Bool.and_eq_true, decide_eq_true_eq] at h ⊢
    exact ⟨⟨by omega, h.1.2⟩, h.2⟩

theorem Memory.wfFrom_write {size lo : Nat} {m : Memory} {a : Nat} (v : Block)
    (h : Memory.wfFrom size lo m = true) (hlo : lo ≤ a) (ha : a < size) :
    Memory.wfFrom size lo (Memory.write m a v) = true := by
  induction m generalizing lo with
  | nil => simp [Memory.write, Memory.wfFrom, hlo, ha]
  | cons cell rest ih =>
    obtain ⟨k, b⟩ := cell
    simp only [Memory.wfFrom, Bool.and_eq_true, decide_eq_true_eq] at h
    obtain ⟨⟨hk, hks⟩, hrest⟩ := h
    simp only [Memory.write]
    split
    · next hak => simp [Memory.wfFrom, hlo, ha, hks, hrest]; omega
    · split
      · next hak => subst hak; simp [Memory.wfFrom, hlo, ha, hrest]
      · simp [Memory.wfFrom, hk, hks, ih hrest (by omega)]

/-- A write inside the memory keeps the canonical form. -/
theorem Memory.wf_write {size : Nat} {m : Memory} {a : Nat} (v : Block) (h : Memory.wf size m = true)
    (ha : a < size) : Memory.wf size (Memory.write m a v) = true :=
  Memory.wfFrom_write v h (Nat.zero_le a) ha

theorem Memory.wfFrom_filter {size lo : Nat} {m : Memory} (p : Host.Cell → Bool)
    (h : Memory.wfFrom size lo m = true) : Memory.wfFrom size lo (m.filter p) = true := by
  induction m generalizing lo with
  | nil => rfl
  | cons cell rest ih =>
    obtain ⟨k, b⟩ := cell
    simp only [Memory.wfFrom, Bool.and_eq_true, decide_eq_true_eq] at h
    obtain ⟨⟨hk, hks⟩, hrest⟩ := h
    simp only [List.filter_cons]
    split
    · simp [Memory.wfFrom, hk, hks, ih hrest]
    · exact Memory.wfFrom_mono (by omega) (ih hrest)

/-- Dropping blocks, as the reset event does, keeps the canonical form. -/
theorem Memory.wf_filter {size : Nat} {m : Memory} (p : Host.Cell → Bool) (h : Memory.wf size m = true) :
    Memory.wf size (m.filter p) = true := Memory.wfFrom_filter p h

@[simp] theorem Memory.wf_nil (size : Nat) : Memory.wf size [] = true := rfl

theorem Memory.read_filter_lt (m : Memory) (n k : Nat) :
    Memory.read (m.filter (fun cell => decide (cell.1 < n))) k = if k < n then Memory.read m k else none := by
  induction m with
  | nil => simp [Memory.read]
  | cons cell rest ih =>
    obtain ⟨a, b⟩ := cell
    simp only [List.filter_cons, decide_eq_true_eq]
    split
    · simp only [Memory.read, ih]; split <;> simp_all
    · simp only [Memory.read, ih]; split <;> simp_all; omega

/-- Reading the block just stored gives it. -/
theorem State.blockAt_storeBlock_same (s : State) (sp : Space) (k : Nat) (b : Block) :
    (s.storeBlock sp k b).blockAt sp k = b := by
  simp [State.blockAt, Memory.read_write_same]

/-- Storing a block leaves every other block of every space alone. -/
theorem State.blockAt_storeBlock_other (s : State) {sp sp' : Space} {k k' : Nat} (b : Block)
    (h : sp' ≠ sp ∨ k' ≠ k) : (s.storeBlock sp k b).blockAt sp' k' = s.blockAt sp' k' := by
  by_cases hsp : sp' = sp
  · subst hsp
    have hk : k' ≠ k := h.resolve_left (fun hne => hne rfl)
    simp [State.blockAt, Memory.read_write_other _ b hk]
  · exact State.blockAt_congr (s.storeBlock_mem_ne sp sp' k b hsp) (by simp) k'

end Sys2Proof.Machine
end

