-- ==== Sys2Proof/Laws/Ops.lean ====
section
/-! SUPPORT. What each shared operation can do, said once: a later proof cites these and does not unfold the
operation. -/

namespace Sys2Proof.Machine

/-- What the gate of a host write answers (60_exceptions.md R190, rows 1 and 2). -/
theorem State.gated_cases {s t : State} {act : State → Result} (h : s.gated act = .next t) :
    (s.status.fault = true ∧ t = s) ∨
    (s.status.fault = false ∧ s.status.busy = true ∧ t = s.noteOverrun) ∨
    (s.status.fault = false ∧ s.status.busy = false ∧ act s = .next t) := by
  unfold State.gated at h
  split at h
  · next hf => cases h; exact .inl ⟨hf, rfl⟩
  · next hf =>
    split at h
    · next hb => cases h; exact .inr (.inl ⟨by simpa using hf, hb, rfl⟩)
    · next hb => exact .inr (.inr ⟨by simpa using hf, by simpa using hb, h⟩)

theorem State.gated_ready {s : State} (act : State → Result) (hf : s.status.fault = false)
    (hb : s.status.busy = false) : s.gated act = act s := by simp [State.gated, hf, hb]

theorem State.gated_busy {s : State} (act : State → Result) (hf : s.status.fault = false)
    (hb : s.status.busy = true) : s.gated act = .next s.noteOverrun := by simp [State.gated, hf, hb]

theorem State.gated_halted {s : State} (act : State → Result) (hf : s.status.fault = true) :
    s.gated act = .next s := by simp [State.gated, hf]

/-- A command is accepted, or rejected with its code (30_encoding.md R70). -/
theorem State.accept_cases (s : State) (check : ErrCode) (start : State → State) :
    (check = .none ∧ s.accept check start = start s.openEpisode) ∨
    (check ≠ .none ∧ s.accept check start = s.openEpisode.raiseError check) := by
  cases check <;> simp [State.accept]

@[simp] theorem State.accept_none (s : State) (start : State → State) :
    s.accept .none start = start s.openEpisode := rfl

theorem State.accept_error (s : State) {check : ErrCode} (start : State → State) (h : check ≠ .none) :
    s.accept check start = s.openEpisode.raiseError check := by
  cases check <;> first | rfl | exact absurd rfl h

@[simp] theorem State.inProgress_run {s : State} {op i : Instr} {ph : Phase} {a b n : Nat}
    (h : s.seq = .run op ph a b n) : s.inProgress i = decide (op = i) := by simp [State.inProgress, h]

@[simp] theorem State.inProgress_idle {s : State} {i : Instr} (h : s.seq = .idle) : s.inProgress i = false := by
  simp [State.inProgress, h]

/-- A command in progress stands in the sequencer. -/
theorem State.inProgress_cases {s : State} {i : Instr} (h : s.inProgress i = true) :
    ∃ ph a b n, s.seq = .run i ph a b n := by
  unfold State.inProgress at h
  split at h
  · cases h
  · next op ph a b n hs => exact ⟨ph, a, b, n, by rw [hs, of_decide_eq_true h]⟩

/-- Everything a command on the sequencer can do when it answers a next state: be turned away by the gate, be
rejected, start, or take a step. -/
theorem runCommand_cases {i : Instr} {check : State → ErrCode} {start advance : State → State} {s t : State}
    (h : runCommand i check start advance s = .next t) :
    (s.inProgress i = true ∧ s.tables.wf = true ∧ t = advance s) ∨
    (s.inProgress i = false ∧ s.status.fault = true ∧ t = s) ∨
    (s.inProgress i = false ∧ s.status.fault = false ∧ s.status.busy = true ∧ t = s.noteOverrun) ∨
    (s.inProgress i = false ∧ s.status.fault = false ∧ s.status.busy = false ∧ check s = .none ∧
      t = start s.openEpisode) ∨
    (s.inProgress i = false ∧ s.status.fault = false ∧ s.status.busy = false ∧ check s ≠ .none ∧
      t = s.openEpisode.raiseError (check s)) := by
  unfold runCommand at h
  split at h
  · next hp =>
    split at h
    · next hw => cases h; exact .inl ⟨hp, hw, rfl⟩
    · cases h
  · next hp =>
    have hp : s.inProgress i = false := by simpa using hp
    obtain ⟨hf, rfl⟩ | ⟨hf, hb, rfl⟩ | ⟨hf, hb, ha⟩ := State.gated_cases h
    · exact .inr (.inl ⟨hp, hf, rfl⟩)
    · exact .inr (.inr (.inl ⟨hp, hf, hb, rfl⟩))
    · cases ha
      obtain ⟨hc, he⟩ | ⟨hc, he⟩ := s.accept_cases (check s) start
      · exact .inr (.inr (.inr (.inl ⟨hp, hf, hb, hc, he⟩)))
      · exact .inr (.inr (.inr (.inr ⟨hp, hf, hb, hc, he⟩)))

/-- The command in execution takes a step. -/
theorem runCommand_advance {i : Instr} (check : State → ErrCode) (start advance : State → State) {s : State}
    (hp : s.inProgress i = true) (hw : s.tables.wf = true) :
    runCommand i check start advance s = .next (advance s) := by simp [runCommand, hp, hw]

/-- A command issued to a core that is idle and not halted is accepted or rejected. -/
theorem runCommand_issue {i : Instr} (check : State → ErrCode) (start advance : State → State) {s : State}
    (hs : s.seq = .idle) (hb : s.status.busy = false) (hf : s.status.fault = false) :
    runCommand i check start advance s = .next (s.accept (check s) start) := by
  simp [runCommand, State.inProgress_idle hs, State.gated_ready _ hf hb]

/-- The only stop of a command on the sequencer: a step under a TABLES that is not well formed. -/
theorem runCommand_total {i : Instr} (check : State → ErrCode) (start advance : State → State) {s : State}
    (hw : s.tables.wf = true) : ∃ t, runCommand i check start advance s = .next t := by
  unfold runCommand State.gated
  split
  · simp
  · split
    · exact ⟨_, rfl⟩
    · split <;> exact ⟨_, rfl⟩

/-! ### The meanings as instances of the shared operations -/

theorem exec_nop (s : State) : exec .nop s = s.gated (fun s => .next s) := rfl

theorem exec_clr (s : State) : exec .clr s = s.gated (fun s => .next s.acknowledge) := rfl

theorem exec_enc1 (s : State) : exec .enc1 s = runCommand .enc1 noCheck (fun s => s.startRun .enc1 .exec)
    (fun s => s.finish (.block (cipherE s.tables s.regs.din s.regs.key1))) s := rfl

theorem exec_dec1 (s : State) : exec .dec1 s = runCommand .dec1 noCheck (fun s => s.startRun .dec1 .exec)
    (fun s => s.finish (.block (cipherD s.tables s.regs.din s.regs.key1))) s := rfl

theorem exec_enc2 (s : State) : exec .enc2 s = runCommand .enc2 noCheck (fun s => s.startRun .enc2 .exec)
    (fun s => s.finish (.block (cipherE2 s.tables s.regs.din s.regs.key1 s.regs.key2))) s := rfl

theorem exec_dec2 (s : State) : exec .dec2 s = runCommand .dec2 noCheck (fun s => s.startRun .dec2 .exec)
    (fun s => s.finish (.block (cipherD2 s.tables s.regs.din s.regs.key1 s.regs.key2))) s := rfl

/-- KSCHED with a legal selector runs on the sequencer. -/
theorem exec_ksched_legal {sel : BitVec 2} {q : Selector} (h : Selector.ofField sel = some q) (s : State) :
    exec (.ksched sel) s = runCommand (.ksched sel) noCheck (fun s => s.startRun (.ksched sel) .exec)
      (fun s => s.finish (.roundKey (keySchedule s.tables s.regs.key1 q))) s := by
  simp only [exec, execKsched, h, singlePhase]

/-- KSCHED with another selector is rejected at acceptance. -/
theorem exec_ksched_illegal {sel : BitVec 2} (h : Selector.ofField sel = none) (s : State) :
    exec (.ksched sel) s = s.gated (fun s => .next (s.openEpisode.raiseError .badSelector)) := by
  simp only [exec, execKsched, h]; rfl

theorem exec_mitm (s : State) :
    exec .mitm s = runCommand .mitm noCheck (fun s => s.startRun .mitm .fillF) advanceMitm s := rfl

theorem exec_brute (s : State) :
    exec .brute s = runCommand .brute noCheck (fun s => s.startRun .brute .scan) advanceBrute s := rfl

theorem exec_cbcd (s : State) : exec .cbcd s = runCommand .cbcd lengthCheck startCbcd advanceCbcd s := rfl

theorem Selector.ofField_legal (sel : BitVec 2) : (Selector.ofField sel).isSome = selectorLegal sel := by
  unfold Selector.ofField selectorLegal
  split
  · next h => simp [h]
  · split
    · next h => simp [h]
    · simp_all

/-- Every command answers a next state under a well-formed TABLES. -/
theorem exec_total (i : Instr) {s : State} (hw : s.tables.wf = true) : ∃ t, exec i s = .next t := by
  have gated_total (act : State → State) : ∃ t, s.gated (fun s => .next (act s)) = .next t := by
    unfold State.gated
    split
    · exact ⟨_, rfl⟩
    · split <;> exact ⟨_, rfl⟩
  cases i with
  | nop => exact gated_total id
  | clr => exact gated_total _
  | enc1 => rw [exec_enc1]; exact runCommand_total _ _ _ hw
  | dec1 => rw [exec_dec1]; exact runCommand_total _ _ _ hw
  | enc2 => rw [exec_enc2]; exact runCommand_total _ _ _ hw
  | dec2 => rw [exec_dec2]; exact runCommand_total _ _ _ hw
  | mitm => exact runCommand_total _ _ _ hw
  | brute => exact runCommand_total _ _ _ hw
  | cbcd => exact runCommand_total _ _ _ hw
  | ksched sel =>
    cases hq : Selector.ofField sel with
    | some q => rw [exec_ksched_legal hq]; exact runCommand_total _ _ _ hw
    | none => rw [exec_ksched_illegal hq]; exact gated_total _

/-- How an accepted command starts, from the state with its episode open. -/
def startOf (i : Instr) (s : State) : State :=
  match i with
  | .nop | .clr => s
  | .enc1 | .dec1 | .enc2 | .dec2 | .ksched _ => s.startRun i .exec
  | .mitm => s.startRun .mitm .fillF
  | .brute => s.startRun .brute .scan
  | .cbcd => startCbcd s

/-- The next sequencer step of a command in execution. -/
def advanceOf (i : Instr) (s : State) : State :=
  match i with
  | .nop | .clr => s
  | .enc1 => s.finish (.block (cipherE s.tables s.regs.din s.regs.key1))
  | .dec1 => s.finish (.block (cipherD s.tables s.regs.din s.regs.key1))
  | .enc2 => s.finish (.block (cipherE2 s.tables s.regs.din s.regs.key1 s.regs.key2))
  | .dec2 => s.finish (.block (cipherD2 s.tables s.regs.din s.regs.key1 s.regs.key2))
  | .ksched sel =>
    match Selector.ofField sel with
    | some q => s.finish (.roundKey (keySchedule s.tables s.regs.key1 q))
    | none => s
  | .mitm => advanceMitm s
  | .brute => advanceBrute s
  | .cbcd => advanceCbcd s

/-- The core looks at a command written now: neither FAULT nor BUSY. -/
abbrev State.lookingAt (s : State) : Prop := s.status.fault = false ∧ s.status.busy = false

/-- Everything a command can do when it answers a next state: nothing, be lost on a busy core, clear the flags, be
rejected, start, or take its next sequencer step. -/
theorem exec_cases {i : Instr} {s t : State} (h : exec i s = .next t) :
    ((s.status.fault = true ∨ i = .nop) ∧ t = s) ∨
    (s.status.fault = false ∧ s.status.busy = true ∧
      (s.inProgress i = true → i.wf = false ∨ i = .nop ∨ i = .clr) ∧ t = s.noteOverrun) ∨
    (s.lookingAt ∧ i = .clr ∧ t = s.acknowledge) ∨
    (s.lookingAt ∧ ∃ e, e ≠ .none ∧ e ≠ .tableFault ∧ t = s.openEpisode.raiseError e) ∨
    (s.lookingAt ∧ i.wf = true ∧ i ≠ .nop ∧ i ≠ .clr ∧ (i = .cbcd → lengthCheck s = .none) ∧
      t = startOf i s.openEpisode) ∨
    (s.inProgress i = true ∧ i.wf = true ∧ i ≠ .nop ∧ i ≠ .clr ∧ s.tables.wf = true ∧ t = advanceOf i s) := by
  have run {i : Instr} {check : State → ErrCode} {start advance : State → State} (hw : i.wf = true)
      (hn : i ≠ .nop) (hc : i ≠ .clr) (hcheck : check s ≠ .tableFault)
      (hl : i = .cbcd → check s = lengthCheck s)
      (hstart : start s.openEpisode = startOf i s.openEpisode) (hadv : advance s = advanceOf i s)
      (h : runCommand i check start advance s = .next t) :
      ((s.status.fault = true ∨ i = .nop) ∧ t = s) ∨
      (s.status.fault = false ∧ s.status.busy = true ∧
        (s.inProgress i = true → i.wf = false ∨ i = .nop ∨ i = .clr) ∧ t = s.noteOverrun) ∨
      (s.lookingAt ∧ i = .clr ∧ t = s.acknowledge) ∨
      (s.lookingAt ∧ ∃ e, e ≠ .none ∧ e ≠ .tableFault ∧ t = s.openEpisode.raiseError e) ∨
      (s.lookingAt ∧ i.wf = true ∧ i ≠ .nop ∧ i ≠ .clr ∧ (i = .cbcd → lengthCheck s = .none) ∧
        t = startOf i s.openEpisode) ∨
      (s.inProgress i = true ∧ i.wf = true ∧ i ≠ .nop ∧ i ≠ .clr ∧ s.tables.wf = true ∧ t = advanceOf i s) := by
    obtain ⟨hp, ht, rfl⟩ | ⟨-, hf, rfl⟩ | ⟨hp, hf, hb, rfl⟩ | ⟨-, hf, hb, he, rfl⟩ | ⟨-, hf, hb, he, rfl⟩ :=
      runCommand_cases h
    · exact .inr (.inr (.inr (.inr (.inr ⟨hp, hw, hn, hc, ht, hadv⟩))))
    · exact .inl ⟨.inl hf, rfl⟩
    · exact .inr (.inl ⟨hf, hb, fun h => absurd h (by simp [hp]), rfl⟩)
    · exact .inr (.inr (.inr (.inr (.inl ⟨⟨hf, hb⟩, hw, hn, hc, fun hi => (hl hi) ▸ he, hstart⟩))))
    · exact .inr (.inr (.inr (.inl ⟨⟨hf, hb⟩, _, he, hcheck, rfl⟩)))
  have notCbcd {i : Instr} {P : Prop} (hi : i ≠ .cbcd) : i = .cbcd → P := fun h => absurd h hi
  cases i with
  | nop =>
    obtain ⟨hf, rfl⟩ | ⟨hf, hb, rfl⟩ | ⟨-, -, h⟩ := State.gated_cases (exec_nop s ▸ h)
    · exact .inl ⟨.inr rfl, rfl⟩
    · exact .inr (.inl ⟨hf, hb, fun _ => .inr (.inl rfl), rfl⟩)
    · cases h; exact .inl ⟨.inr rfl, rfl⟩
  | clr =>
    obtain ⟨hf, rfl⟩ | ⟨hf, hb, rfl⟩ | ⟨hf, hb, h⟩ := State.gated_cases (exec_clr s ▸ h)
    · exact .inl ⟨.inl hf, rfl⟩
    · exact .inr (.inl ⟨hf, hb, fun _ => .inr (.inr rfl), rfl⟩)
    · cases h; exact .inr (.inr (.inl ⟨⟨hf, hb⟩, rfl, rfl⟩))
  | enc1 => exact run rfl (by simp) (by simp) (by simp [noCheck]) (notCbcd (by simp)) rfl rfl (exec_enc1 s ▸ h)
  | dec1 => exact run rfl (by simp) (by simp) (by simp [noCheck]) (notCbcd (by simp)) rfl rfl (exec_dec1 s ▸ h)
  | enc2 => exact run rfl (by simp) (by simp) (by simp [noCheck]) (notCbcd (by simp)) rfl rfl (exec_enc2 s ▸ h)
  | dec2 => exact run rfl (by simp) (by simp) (by simp [noCheck]) (notCbcd (by simp)) rfl rfl (exec_dec2 s ▸ h)
  | mitm => exact run rfl (by simp) (by simp) (by simp [noCheck]) (notCbcd (by simp)) rfl rfl (exec_mitm s ▸ h)
  | brute => exact run rfl (by simp) (by simp) (by simp [noCheck]) (notCbcd (by simp)) rfl rfl (exec_brute s ▸ h)
  | cbcd =>
    have hl : lengthCheck s ≠ .tableFault := by unfold lengthCheck; split <;> [simp; split <;> simp]
    exact run rfl (by simp) (by simp) hl (fun _ => rfl) rfl rfl (exec_cbcd s ▸ h)
  | ksched sel =>
    have hleg := Selector.ofField_legal sel
    cases hq : Selector.ofField sel with
    | some q =>
      rw [hq] at hleg
      exact run hleg.symm (by simp) (by simp) (by simp [noCheck]) (notCbcd (by simp)) rfl
        (by simp [advanceOf, hq]) (exec_ksched_legal hq s ▸ h)
    | none =>
      obtain ⟨hf, rfl⟩ | ⟨hf, hb, rfl⟩ | ⟨hf, hb, h⟩ := State.gated_cases (exec_ksched_illegal hq s ▸ h)
      · exact .inl ⟨.inl hf, rfl⟩
      · rw [hq] at hleg
        exact .inr (.inl ⟨hf, hb, fun _ => .inl hleg.symm, rfl⟩)
      · cases h; exact .inr (.inr (.inr (.inl ⟨⟨hf, hb⟩, _, by simp, by simp, rfl⟩)))

/-- The command in execution takes its next sequencer step. -/
theorem exec_advance {i : Instr} {s : State} (hp : s.inProgress i = true) (hw : i.wf = true) (hn : i ≠ .nop)
    (hc : i ≠ .clr) (ht : s.tables.wf = true) : exec i s = .next (advanceOf i s) := by
  cases i with
  | nop => exact absurd rfl hn
  | clr => exact absurd rfl hc
  | enc1 => rw [exec_enc1, runCommand_advance _ _ _ hp ht]; rfl
  | dec1 => rw [exec_dec1, runCommand_advance _ _ _ hp ht]; rfl
  | enc2 => rw [exec_enc2, runCommand_advance _ _ _ hp ht]; rfl
  | dec2 => rw [exec_dec2, runCommand_advance _ _ _ hp ht]; rfl
  | mitm => rw [exec_mitm, runCommand_advance _ _ _ hp ht]; rfl
  | brute => rw [exec_brute, runCommand_advance _ _ _ hp ht]; rfl
  | cbcd => rw [exec_cbcd, runCommand_advance _ _ _ hp ht]; rfl
  | ksched sel =>
    have hleg := Selector.ofField_legal sel
    cases hq : Selector.ofField sel with
    | some q => rw [exec_ksched_legal hq, runCommand_advance _ _ _ hp ht]; simp [advanceOf, hq]
    | none => rw [hq] at hleg; simp [Instr.wf, ← hleg] at hw

/-- Everything a host write can do. -/
theorem hostWrite_cases {a : HostAddr} {v : HostWord} {s t : State} (h : hostWrite a v s = .next t) :
    (s.status.fault = true ∧ t = s) ∨
    (s.status.fault = false ∧ s.status.busy = true ∧ t = s.noteOverrun) ∨
    (s.status.fault = false ∧ s.status.busy = false ∧
      ((target a = .reg .cmd ∧ issueWord (v.setWidth 8) s = .next t) ∨
       (∃ r, r ≠ .cmd ∧ target a = .reg r ∧ t = s.writeReg r v) ∨
       (∃ k, target a = .ctbuf k ∧ t = s.storeBlock .ctbuf k (v.setWidth 8)) ∨
       (∃ k, target a = .ptbuf k ∧ t = s) ∨
       (target a = .unmapped ∧ t = s))) := by
  obtain h | h | ⟨hf, hb, h⟩ := State.gated_cases h
  · exact .inl h
  · exact .inr (.inl h)
  · refine .inr (.inr ⟨hf, hb, ?_⟩)
    split at h
    · next he => exact .inl ⟨he, h⟩
    · next r hne he => cases h; exact .inr (.inl ⟨r, hne, he, rfl⟩)
    · next k he => cases h; exact .inr (.inr (.inl ⟨k, he, rfl⟩))
    · next k he => cases h; exact .inr (.inr (.inr (.inl ⟨k, he, rfl⟩)))
    · next he => cases h; exact .inr (.inr (.inr (.inr ⟨he, rfl⟩)))

/-- What writing a command word does once it has passed the gate. -/
theorem issueWord_cases {c : CmdWord} {s t : State} (h : issueWord c s = .next t) :
    (∃ i, decode c = .ok i ∧ exec i s = .next t) ∨
    (∃ e, decode c = .error e ∧ t = s.openEpisode.raiseError .illegalCmd) := by
  unfold issueWord at h
  split at h
  · next i hd => exact .inl ⟨i, hd, h⟩
  · next e hd => cases h; exact .inr ⟨e, hd, rfl⟩

/-- The three results of one step of SCAN (45_key_recovery.md R152). -/
theorem scanStep_cases (op : Instr) (hit : State → Nat → Nat → Bool) (i j n : Nat) (s : State) :
    (hit s i j = true ∧ scanStep op hit i j n s = s.finish (.keyPair (some (keyOf i, keyOf j)))) ∨
    (hit s i j = false ∧ j + 1 < Config.nKeys ∧ scanStep op hit i j n s = s.moveTo op .scan i (j + 1) n) ∨
    (hit s i j = false ∧ Config.nKeys ≤ j + 1 ∧ i + 1 < Config.nKeys ∧
      scanStep op hit i j n s = s.moveTo op .scan (i + 1) 0 n) ∨
    (hit s i j = false ∧ Config.nKeys ≤ j + 1 ∧ Config.nKeys ≤ i + 1 ∧
      scanStep op hit i j n s = s.finish (.keyPair none)) := by
  unfold scanStep
  split
  · next h => exact .inl ⟨h, rfl⟩
  · next h =>
    have h : hit s i j = false := by simpa using h
    split
    · next hj => exact .inr (.inl ⟨h, hj, rfl⟩)
    · next hj =>
      split
      · next hi => exact .inr (.inr (.inl ⟨h, by omega, hi, rfl⟩))
      · next hi => exact .inr (.inr (.inr ⟨h, by omega, by omega, rfl⟩))

/-! ### What starting and advancing leave alone -/

/-- Starting a command touches no register, no memory, no sticky flag, neither TABLES nor the outside world. -/
theorem startOf_keeps (i : Instr) (s : State) :
    (startOf i s).regs = s.regs ∧ (startOf i s).tables = s.tables ∧ (startOf i s).errcode = s.errcode ∧
    (startOf i s).status.fault = s.status.fault ∧ (startOf i s).status.ovr = s.status.ovr ∧
    (startOf i s).status.err = s.status.err ∧ (startOf i s).status.done = s.status.done ∧
    (startOf i s).status.found = s.status.found ∧ (∀ sp, (startOf i s).mem sp = s.mem sp) ∧
    (startOf i s).script = s.script ∧ (startOf i s).schedule = s.schedule ∧ (startOf i s).reads = s.reads ∧
    (startOf i s).resets = s.resets := by
  cases i <;>
    exact ⟨rfl, rfl, rfl, rfl, rfl, rfl, rfl, rfl, fun sp => by cases sp <;> rfl, rfl, rfl, rfl, rfl⟩

/-- The three results of one step of FILL_F or FILL_B, of SCAN, and of BLOCKS, whichever command is at it. -/
theorem advanceOf_cases (i : Instr) (s : State) :
    advanceOf i s = s ∨
    (∃ l, advanceOf i s = s.finish l) ∨
    (∃ q, advanceOf i s = { s with seq := q }) ∨
    (∃ sp k b q, (sp = .fwd ∨ sp = .bwd) ∧ advanceOf i s = { s.storeBlock sp k b with seq := q }) ∨
    (∃ n q, n < s.regs.blockCount ∧ advanceOf i s = { cbcBlock n s with seq := q }) ∨
    (∃ n, n < s.regs.blockCount ∧ advanceOf i s = (cbcBlock n s).finish .nothing) := by
  have scan (op hit) (a b n : Nat) : (∃ l, scanStep op hit a b n s = s.finish l) ∨
      (∃ q, scanStep op hit a b n s = { s with seq := q }) := by
    obtain ⟨-, h⟩ | ⟨-, -, h⟩ | ⟨-, -, -, h⟩ | ⟨-, -, -, h⟩ := scanStep_cases op hit a b n s
    · exact .inl ⟨_, h⟩
    · exact .inr ⟨_, h⟩
    · exact .inr ⟨_, h⟩
    · exact .inl ⟨_, h⟩
  cases i with
  | nop => exact .inl rfl
  | clr => exact .inl rfl
  | enc1 => exact .inr (.inl ⟨_, rfl⟩)
  | dec1 => exact .inr (.inl ⟨_, rfl⟩)
  | enc2 => exact .inr (.inl ⟨_, rfl⟩)
  | dec2 => exact .inr (.inl ⟨_, rfl⟩)
  | ksched sel =>
    simp only [advanceOf]
    split
    · exact .inr (.inl ⟨_, rfl⟩)
    · exact .inl rfl
  | brute =>
    simp only [advanceOf, advanceBrute]
    split
    · exact .inl rfl
    · next op ph a b n hs =>
      obtain h | h := scan .brute bruteHit a b n
      · exact .inr (.inl h)
      · exact .inr (.inr (.inl h))
  | mitm =>
    simp only [advanceOf, advanceMitm]
    split
    · exact .inl rfl
    · simp only [fillForward]
      split <;> exact .inr (.inr (.inr (.inl ⟨.fwd, _, _, _, .inl rfl, rfl⟩)))
    · simp only [fillBackward]
      split <;> exact .inr (.inr (.inr (.inl ⟨.bwd, _, _, _, .inr rfl, rfl⟩)))
    · next op ph a b n _ _ hs =>
      obtain h | h := scan .mitm mitmHit a b n
      · exact .inr (.inl h)
      · exact .inr (.inr (.inl h))
  | cbcd =>
    simp only [advanceOf, advanceCbcd]
    split
    · exact .inl rfl
    · split
      · next hn =>
        split
        · exact .inr (.inr (.inr (.inr (.inl ⟨_, _, hn, rfl⟩))))
        · exact .inr (.inr (.inr (.inr (.inr ⟨_, hn, rfl⟩))))
      · exact .inr (.inl ⟨_, rfl⟩)

/-- A commit writes result registers only, and no memory. -/
theorem State.finish_keeps (s : State) (l : Latch) :
    (s.finish l).regs = { s.regs with
      dout := (s.finish l).regs.dout
      rkey := (s.finish l).regs.rkey
      fk1 := (s.finish l).regs.fk1
      fk2 := (s.finish l).regs.fk2 } ∧
    ∀ sp, (s.finish l).mem sp = s.mem sp := by
  refine ⟨?_, fun sp => by cases sp <;> rfl⟩
  cases l with
  | keyPair found => cases found <;> rfl
  | _ => rfl

/-- A sequencer step touches neither TABLES nor the outside world, no input register, not CTBUF, and of the flags
BUSY, DONE and FOUND at most. -/
theorem advanceOf_keeps (i : Instr) (s : State) :
    (advanceOf i s).tables = s.tables ∧ (advanceOf i s).errcode = s.errcode ∧
    (advanceOf i s).status.fault = s.status.fault ∧ (advanceOf i s).status.ovr = s.status.ovr ∧
    (advanceOf i s).status.err = s.status.err ∧ (advanceOf i s).ctbuf = s.ctbuf ∧
    (advanceOf i s).ptOld = s.ptOld ∧ (advanceOf i s).script = s.script ∧
    (advanceOf i s).schedule = s.schedule ∧ (advanceOf i s).reads = s.reads ∧
    (advanceOf i s).resets = s.resets ∧
    (advanceOf i s).regs = { s.regs with
      dout := (advanceOf i s).regs.dout
      rkey := (advanceOf i s).regs.rkey
      fk1 := (advanceOf i s).regs.fk1
      fk2 := (advanceOf i s).regs.fk2 } := by
  obtain h | ⟨l, h⟩ | ⟨q, h⟩ | ⟨sp, k, b, q, rfl | rfl, h⟩ | ⟨n, q, -, h⟩ | ⟨n, -, h⟩ := advanceOf_cases i s <;>
    rw [h]
  · exact ⟨rfl, rfl, rfl, rfl, rfl, rfl, rfl, rfl, rfl, rfl, rfl, rfl⟩
  · exact ⟨rfl, rfl, rfl, rfl, rfl, rfl, rfl, rfl, rfl, rfl, rfl, (s.finish_keeps l).1⟩
  · exact ⟨rfl, rfl, rfl, rfl, rfl, rfl, rfl, rfl, rfl, rfl, rfl, rfl⟩
  · exact ⟨rfl, rfl, rfl, rfl, rfl, rfl, rfl, rfl, rfl, rfl, rfl, rfl⟩
  · exact ⟨rfl, rfl, rfl, rfl, rfl, rfl, rfl, rfl, rfl, rfl, rfl, rfl⟩
  · exact ⟨rfl, rfl, rfl, rfl, rfl, rfl, rfl, rfl, rfl, rfl, rfl, rfl⟩
  · exact ⟨rfl, rfl, rfl, rfl, rfl, rfl, rfl, rfl, rfl, rfl, rfl, rfl⟩

/-- Only the core moves while a command runs and the schedule names no host turn. -/
theorem nextMover_core {s : State} (hr : s.seq.running = true) (hf : s.status.fault = false)
    (hs : s.schedule = []) : nextMover s = .core := by simp [nextMover, hr, hf, hs]

/-- An idle core does not move. -/
theorem nextMover_idle {s : State} (hs : s.seq = .idle) : nextMover s = .host := by
  simp [nextMover, hs, Seq.running]

@[simp] theorem State.takeTurn_idle {s : State} (hs : s.seq = .idle) : s.takeTurn = s := by
  simp [State.takeTurn, hs, Seq.running]

/-- Who acts in a step, and on which state. -/
theorem step_cases (s : State) :
    (nextMover s = .host ∧ step s = hostTurn s.takeTurn) ∨
    (nextMover s = .core ∧ s.seq.running = true ∧ s.status.fault = false ∧ step s = coreTurn s.takeTurn) := by
  cases hm : nextMover s with
  | host => exact .inl ⟨rfl, by simp [step, hm]⟩
  | core =>
    refine .inr ⟨rfl, ?_, ?_, by simp [step, hm]⟩
    · unfold nextMover at hm; split at hm <;> simp_all
    · unfold nextMover at hm; split at hm <;> simp_all

/-- The reset event leaves exactly the registers, flags and sequencer of a reset (70_reset_and_hazards.md R210). -/
theorem State.applyReset_fields (s : State) :
    s.applyReset.tables = s.tables ∧ s.applyReset.regs = .zero ∧ s.applyReset.seq = .idle ∧
    s.applyReset.status = { Status.zero with fault := !s.tables.wf } ∧
    s.applyReset.errcode = (if s.tables.wf then .none else .tableFault) ∧
    s.applyReset.ctbuf = [] ∧ s.applyReset.ptbuf = s.ptbufAfterReset ∧ s.applyReset.fwd = [] ∧
    s.applyReset.bwd = [] ∧ s.applyReset.ptOld = [] ∧ s.applyReset.resets = s.resets + 1 := by
  cases hw : s.tables.wf <;>
    simp [State.applyReset, State.resetWith, State.cleared, State.raiseTableFault, Status.zero, hw]

end Sys2Proof.Machine
end

