-- ==== Sys2Proof/Laws/PerInstr.lean ====
section
/-! SUPPORT. Statements about every command as syntax, one lemma per command. -/

namespace Sys2Proof.Laws.WordFields

/-- The word of a command has the fields of the format CMD8: bits 7:6 are 00, the operation code is 9 at most, and SEL
is 00 on every command but KSCHED (30_encoding.md R70, R72). -/
def Statement (i : Instr) : Prop :=
  zField (encode i) = 0#2 ∧ opcField (encode i) ≤ 0x9#4 ∧
    ((∀ sel, i ≠ .ksched sel) → selField (encode i) = 0#2)

theorem nop : Statement .nop := ⟨rfl, by decide, fun _ => rfl⟩

theorem enc1 : Statement .enc1 := ⟨rfl, by decide, fun _ => rfl⟩

theorem dec1 : Statement .dec1 := ⟨rfl, by decide, fun _ => rfl⟩

theorem enc2 : Statement .enc2 := ⟨rfl, by decide, fun _ => rfl⟩

theorem dec2 : Statement .dec2 := ⟨rfl, by decide, fun _ => rfl⟩

theorem ksched (sel : BitVec 2) : Statement (.ksched sel) :=
  ⟨by revert sel; decide, by revert sel; decide, fun h => absurd rfl (h sel)⟩

theorem mitm : Statement .mitm := ⟨rfl, by decide, fun _ => rfl⟩

theorem brute : Statement .brute := ⟨rfl, by decide, fun _ => rfl⟩

theorem cbcd : Statement .cbcd := ⟨rfl, by decide, fun _ => rfl⟩

theorem clr : Statement .clr := ⟨rfl, by decide, fun _ => rfl⟩

end Sys2Proof.Laws.WordFields
end

