-- ==== Sys2Proof/Laws/Port.lean ====
section
/-! SUPPORT. The host address map, read from the side of its targets (20_memory.md R51). -/

namespace Sys2Proof.Machine

/-- Each register stands at its address. -/
theorem target_addr (r : Reg) : target r.addr = .reg r := by
  cases r with
  | p n => cases n <;> decide
  | c n => cases n <;> decide
  | _ => decide

/-- Block `k` of CTBUF stands at 0x400 + k. -/
theorem target_ctbuf {k : Nat} (hk : k < 256) : target (BitVec.ofNat 12 (0x400 + k)) = .ctbuf k := by
  have ha : (BitVec.ofNat 12 (0x400 + k)).toNat = 0x400 + k := by
    rw [BitVec.toNat_ofNat]
    omega
  have hb : ctbufBase = 0x400 := rfl
  have hs := cbcBufBlocks_eq
  unfold target
  rw [if_pos (by omega), ha, hb, Nat.add_sub_cancel_left]

/-- Block `k` of PTBUF stands at 0x800 + k. -/
theorem target_ptbuf {k : Nat} (hk : k < 256) : target (BitVec.ofNat 12 (0x800 + k)) = .ptbuf k := by
  have ha : (BitVec.ofNat 12 (0x800 + k)).toNat = 0x800 + k := by
    rw [BitVec.toNat_ofNat]
    omega
  have hb : ctbufBase = 0x400 := rfl
  have hp : ptbufBase = 0x800 := rfl
  have hs := cbcBufBlocks_eq
  unfold target
  rw [if_neg (by omega), if_pos (by omega), ha, hp, Nat.add_sub_cancel_left]

/-- A block that a host address names lies in its buffer. -/
theorem target_ctbuf_lt {a : HostAddr} {k : Nat} (h : target a = .ctbuf k) : k < 256 := by
  have hs := cbcBufBlocks_eq
  unfold target at h
  split at h
  · next hr =>
    injection h with h
    omega
  · split at h
    · cases h
    · split at h <;> cases h

end Sys2Proof.Machine
end

