-- ==== Sys2Proof/Laws/Step.lean ====
section
/-! SUPPORT. What one step can do, said once: the core takes the next sequencer step of its command, the host makes a
write, the host does something that leaves the core alone, or the platform applies reset. -/

namespace Sys2Proof.Machine

/-- Taking a turn uses up at most an entry of the schedule. -/
theorem State.takeTurn_eq (s : State) : s.takeTurn = { s with schedule := s.takeTurn.schedule } := by
  unfold State.takeTurn
  split <;> rfl

/-- Everything a step can do. -/
theorem step_inversion {s t : State} (h : step s = .next t) :
    (nextMover s = .core ∧ s.status.fault = false ∧
      ∃ op ph i j n, s.seq = .run op ph i j n ∧ exec op { s with schedule := s.takeTurn.schedule } = .next t) ∨
    (nextMover s = .host ∧ ∃ a v rest, nextWrite s = some (a, v) ∧ resetNext s = false ∧
      hostWrite a v { s with schedule := s.takeTurn.schedule, script := rest } = .next t) ∨
    (nextMover s = .host ∧ nextWrite s = none ∧ resetNext s = false ∧
      t = { s with schedule := s.takeTurn.schedule, script := t.script, reads := t.reads }) ∨
    (nextMover s = .host ∧ nextWrite s = none ∧ resetNext s = true ∧ ∃ rest, s.script = .reset :: rest ∧
      t = { ({ s with schedule := s.takeTurn.schedule } : State).applyReset with script := rest }) := by
  obtain ⟨hm, he⟩ | ⟨hm, hr, hf, he⟩ := step_cases s
  · rw [he, s.takeTurn_eq] at h
    have hreset : ∀ x rest, s.script = x :: rest → resetNext s = decide (x = .reset) := by
      intro x rest hx
      simp [resetNext, hm, hx]
    cases hs : s.script with
    | nil =>
      simp only [hostTurn, hs] at h
      cases h
      exact .inr (.inr (.inl ⟨hm, by simp [nextWrite, hs], by simp [resetNext, hs], rfl⟩))
    | cons x rest =>
      simp only [hostTurn, hs] at h
      cases x with
      | write a v =>
        exact .inr (.inl ⟨hm, a, v, rest, by simp [nextWrite, hm, hs], by simp [hreset _ _ hs], h⟩)
      | read a =>
        cases h
        exact .inr (.inr (.inl ⟨hm, by simp [nextWrite, hs], by simp [hreset _ _ hs], rfl⟩))
      | writeLast a =>
        cases hv : s.reads with
        | nil =>
          simp only [hv] at h
          cases h
          exact .inr (.inr (.inl ⟨hm, by simp [nextWrite, hs, hm, hv], by simp [hreset _ _ hs],
            by simp [State.withScript]⟩))
        | cons v vs =>
          simp only [hv] at h
          refine .inr (.inl ⟨hm, a, v, rest, by simp [nextWrite, hm, hs, hv], by simp [hreset _ _ hs], ?_⟩)
          simp only [State.withScript] at h
          rw [← h]
      | wait =>
        cases h
        exact .inr (.inr (.inl ⟨hm, by simp [nextWrite, hs], by simp [hreset _ _ hs], rfl⟩))
      | reset =>
        cases h
        exact .inr (.inr (.inr ⟨hm, by simp [nextWrite, hs], by simp [hreset _ _ hs], rest, rfl, rfl⟩))
  · rw [he, s.takeTurn_eq] at h
    cases hs : s.seq with
    | idle => simp [hs, Seq.running] at hr
    | run op ph i j n =>
      simp only [coreTurn, hs] at h
      exact .inl ⟨hm, hf, op, ph, i, j, n, rfl, hs ▸ h⟩

end Sys2Proof.Machine
end

