-- ==== Sys2Proof/Tests/Slice0.lean ====
section
/-! SUPPORT. Tests: expected results are taken from spec/95_test_vectors.md (the section is named) and from the encodings
of 30_encoding.md; and for each obligation with hypotheses a state and operands that meet them. -/

namespace Sys2Proof.Tests

open Sys2Proof.Machine

/-! ### Small states -/

/-- The state after reset with some data registers set, and the block `v` at CTBUF[0]. -/
def idleWith (r : Regs) (v : Block) : State := { State.reset with regs := r, ctbuf := [(0, v)] }

/-- A command in execution on those registers. -/
def runningWith (r : Regs) (op : Instr) (ph : Phase) (i j n : Nat) : State :=
  { State.reset with regs := r, seq := .run op ph i j n, status := { Status.zero with busy := true } }

/-- KEY1, KEY2 and DIN. -/
def keysAnd (k1 k2 : Key) (din : Block) : Regs := { Regs.zero with key1 := k1, key2 := k2, din := din }

/-- The five pairs of 95_test_vectors.md section 7, vector K1. -/
def pairsK1 : Regs :=
  { Regs.zero with p := ⟨0x48, 0x65, 0x6C, 0x6F, 0x21⟩, c := ⟨0x30, 0x6E, 0x14, 0x64, 0x2A⟩ }

/-- Two pairs with one plaintext and two ciphertexts: no key pair fits (95_test_vectors.md section 11, program 3). -/
def contradictoryPairs : Regs :=
  { Regs.zero with p := ⟨0x48, 0x48, 0, 0, 0⟩, c := ⟨0x30, 0x31, 0, 0, 0⟩ }

/-- Vector B0 of 95_test_vectors.md section 8. -/
def streamB0 : Regs := { Regs.zero with key1 := 0x2E9, key2 := 0x1DA, iv := 0x9C, ctlen := 32 }

/-- A CBCD of vector B0 in execution at block `n`, with `prev` in CHAIN. -/
def runningB0 (n : Nat) (prev : Block) : State :=
  { runningWith streamB0 .cbcd .blocks 0 0 n with
    ctbuf := [(0, 0x2C), (1, 0x26), (2, 0x7A), (3, 0xCD)], chain := prev }

/-- A MITM at a place of its SCAN, with one forward and one backward entry. -/
def scanningMitm (r : Regs) (i j : Nat) (f b : Block) : State :=
  { runningWith r .mitm .scan i j 0 with fwd := [(i, f)], bwd := [(j, b)] }

/-- STD with an entry of P4 out of range. -/
def badTables : Tables := { stdTables with p4 := [2, 4, 3, 5] }

/-- The core halted by a TABLES that is not well formed. -/
def halted : State := State.resetWith badTables

/-- What a next state shows, nothing for a stop. -/
def seen {α : Type} (r : Result) (f : State → α) : Option α :=
  match r with
  | .next t => some (f t)
  | .fault _ => none
  | .refused _ => none

/-! ### Well-formedness -/

theorem test_ksched_sel0_illformed : (Instr.ksched 0).wf = false := by decide

theorem test_ksched_sel3_illformed : (Instr.ksched 3).wf = false := by decide

theorem test_ksched_sel1_wf : (Instr.ksched 1).wf = true := by decide

theorem test_ksched_sel2_wf : (Instr.ksched 2).wf = true := by decide

theorem test_std_tables_wf : stdTables.wf = true := by decide

theorem test_bad_tables_illformed : badTables.wf = false := by decide

theorem test_literal_too_wide_illformed : (Line.wr .key1 (.hex [4, 0, 0])).wf = false := by decide

theorem test_block_index_illformed : (Line.wb 256 (.dec 0)).wf = false := by decide

/-! ### Decoding (30_encoding.md R70, R72, R73; 95_test_vectors.md section 10) -/

theorem test_decode_nop : decode 0b00000000#8 = .ok .nop := rfl

theorem test_decode_enc1 : decode 0b00000001#8 = .ok .enc1 := rfl

theorem test_decode_dec1 : decode 0b00000010#8 = .ok .dec1 := rfl

theorem test_decode_enc2 : decode 0b00000011#8 = .ok .enc2 := rfl

theorem test_decode_dec2 : decode 0b00000100#8 = .ok .dec2 := rfl

theorem test_decode_ksched1 : decode 0b00010101#8 = .ok (.ksched 1) := rfl

theorem test_decode_ksched2 : decode 0b00100101#8 = .ok (.ksched 2) := rfl

theorem test_decode_mitm : decode 0b00000110#8 = .ok .mitm := rfl

theorem test_decode_brute : decode 0b00000111#8 = .ok .brute := rfl

theorem test_decode_cbcd : decode 0b00001000#8 = .ok .cbcd := rfl

theorem test_decode_clr : decode 0b00001001#8 = .ok .clr := rfl

/-- ENC1's operation code with SEL = 1 is no ENC1. -/
theorem test_decode_stray_operand : decode 0b00010001#8 = .error .strayOperand := rfl

theorem test_decode_reserved_opcode : decode 0b00001010#8 = .error .reservedOpcode := rfl

theorem test_decode_reserved_bits : decode 0b01000101#8 = .error .reservedBits := rfl

/-- No word matches two rows of the opcode map. -/
theorem test_opcode_rows_disjoint :
    opcodeRows.Pairwise (fun r q => r.pattern &&& (r.mask &&& q.mask) ≠ q.pattern &&& (r.mask &&& q.mask)) := by
  simp only [opcodeRows]
  decide

/-- "243 give ILLEGAL_CMD" (95_test_vectors.md section 10). -/
theorem test_count_illegal :
    ((List.range 256).filter (fun w => (decodeTableWord 8 w).isNone)).length = 243 := by decide +kernel

/-! ### The cipher (95_test_vectors.md sections 2 to 6 and 9) -/

theorem test_perm_repeats : perm 3 [2, 1, 2] 0b10#2 = 0b010#3 := by decide

theorem test_rotl_example : rotl 0b11011#5 3 = 0b11110#5 := by decide

/-- Rotating by 2 instead of 3 would give 10010010, rotating the ten bits as one vector 00011100. -/
theorem test_key_schedule_vector : keySchedule stdTables 0b1010000010#10 .two = 0b01000011#8 := by decide +kernel

/-- Taking the row from the first two bits would give 00. -/
theorem test_sbox_vector : sbox stdTables.s1 0b0001#4 = 0b11#2 := by decide

theorem test_round_vector : roundF stdTables 0b1001#4 0b11010110#8 = 0b1101#4 := by decide +kernel

/-- Without the final swap the block would be 0xB2. -/
theorem test_encrypt_vector : cipherE stdTables 0xA5 0x282 = 0xCA := by decide +kernel

theorem test_decrypt_vector : cipherD stdTables 0x48 0x2E9 = 0x42 := by decide +kernel

/-! ### One step of each command -/

theorem test_nop_keeps_flags :
    seen (exec .nop { State.reset with status := { Status.zero with done := true, found := true } })
      (fun t => t.status.word) = some 0x06 := by decide +kernel

theorem test_clr_example :
    seen (exec .clr { State.reset with
      status := { Status.zero with done := true, err := true, ovr := true }, errcode := .badLength })
      (fun t => (t.status.word, t.errcode.code)) = some (0x00, 0) := by decide +kernel

theorem test_enc1_vector :
    seen (exec .enc1 (runningWith (keysAnd 0x001 0 0x80) .enc1 .exec 0 0 0))
      (fun t => (t.regs.dout, t.status.word)) = some (0xD3, 0x02) := by decide +kernel

theorem test_dec1_vector :
    seen (exec .dec1 (runningWith (keysAnd 0x155 0 0x01) .dec1 .exec 0 0 0))
      (fun t => (t.regs.dout, t.status.word)) = some (0x68, 0x02) := by decide +kernel

theorem test_enc2_vector :
    seen (exec .enc2 (runningWith (keysAnd 0x1DA 0x2E9 0x48) .enc2 .exec 0 0 0))
      (fun t => (t.regs.dout, t.status.word)) = some (0x28, 0x02) := by decide +kernel

theorem test_dec2_vector :
    seen (exec .dec2 (runningWith (keysAnd 0x2E9 0x1DA 0x30) .dec2 .exec 0 0 0))
      (fun t => (t.regs.dout, t.status.word)) = some (0x48, 0x02) := by decide +kernel

theorem test_ksched_vector :
    seen (exec (.ksched 1) (runningWith (keysAnd 0x31E 0 0) (.ksched 1) .exec 0 0 0))
      (fun t => (t.regs.rkey, t.status.word)) = some (0xE9, 0x02) := by decide +kernel

theorem test_ksched_sel3_rejected :
    seen (exec (.ksched 3) State.reset) (fun t => (t.status.word, t.errcode.code, t.regs.rkey)) =
      some (0x0A, 2, 0) := by decide +kernel

/-- `FWD[7]` of vector K1. -/
theorem test_mitm_forward_vector :
    seen (exec .mitm (runningWith pairsK1 .mitm .fillF 7 0 0)) (fun t => (Memory.read t.fwd 7, t.seq)) =
      some (some 0xD2, .run .mitm .fillF 8 0 0) := by decide +kernel

/-- The pair of vector K1 is found. -/
theorem test_mitm_hit :
    seen (exec .mitm (scanningMitm pairsK1 0x2E9 0x1DA 0x01 0x01))
      (fun t => (t.regs.fk1, t.regs.fk2, t.status.word)) = some (0x2E9, 0x1DA, 0x06) := by decide +kernel

/-- `(0, 158)` of vector K1 is a candidate that pair 2 or a later one rejects. -/
theorem test_brute_candidate_rejected :
    seen (exec .brute (runningWith pairsK1 .brute .scan 0 158 0)) (fun t => (t.seq, t.status.word)) =
      some (.run .brute .scan 0 159 0, 0x01) := by decide +kernel

/-- Exhaustion is no error (program 3). -/
theorem test_brute_exhausted :
    seen (exec .brute (runningWith contradictoryPairs .brute .scan 1023 1023 0))
      (fun t => (t.regs.fk1, t.regs.fk2, t.status.word, t.errcode.code)) = some (0, 0, 0x02, 0) := by decide +kernel

/-- Chaining with the previous plaintext would give 0x0D (vector B0, block 1). -/
theorem test_cbcd_block :
    seen (exec .cbcd (runningB0 1 0x2C)) (fun t => (Memory.read t.ptbuf 1, t.chain)) =
      some (some 0x69, 0x26) := by decide +kernel

/-- Vector B8: both checks fail, BAD_LENGTH is reported. -/
theorem test_cbcd_bad_length_first :
    seen (exec .cbcd (idleWith { Regs.zero with ctlen := 2049 } 0)) (fun t => (t.status.word, t.errcode.code)) =
      some (0x0A, 3) := by decide +kernel

/-! ### The host port -/

/-- KEY1 takes 10 bits and clears RKEY (95_test_vectors.md sections 2 and 5). -/
theorem test_write_key1 :
    seen (hostWrite 0x004 0xFFFF (idleWith { Regs.zero with rkey := 0xA4 } 0)) (fun t => (t.regs.key1, t.regs.rkey)) =
      some (0x3FF, 0) := by decide +kernel

/-- Bits 15:8 of a command write are ignored. -/
theorem test_command_high_byte :
    seen (hostWrite 0x000 0xFF01 State.reset) (fun t => t.seq) = some (.run .enc1 .exec 0 0 0) := by decide +kernel

/-- A step from reset runs the word put in by `withFetchWord`. -/
theorem test_step_from_reset :
    seen (step (State.reset.withFetchWord 8 0x07)) (fun t => (t.seq, t.status.word)) =
      some (.run .brute .scan 0 0 0, 0x01) := by decide +kernel

/-! ### Witnesses: the hypotheses of each obligation can be met -/

theorem reset_ready : State.reset.ready := by decide

theorem executing_of_reset_tables (r : Regs) (op : Instr) (ph : Phase) (i j n : Nat) :
    (runningWith r op ph i j n).executing op ph i j n := ⟨rfl, test_std_tables_wf⟩

theorem witness_StepRunsTheWrittenCommand :
    let s : State := { State.reset with script := [.write 0x000 0x0001, .read 0x007] }
    s.ready ∧ s.script = .write 0x000 0x0001 :: [.read 0x007] ∧ decode ((0x0001 : HostWord).setWidth 8) = .ok .enc1 := by
  decide

/-- A write to DIN, MOVKEYS's write with something read and with nothing read, an idle core with nothing to do, and a
running command with and without a host turn: for the clauses of StepRunsTheWrittenCommand on host turns. -/
theorem witness_StepRunsTheWrittenCommand_host :
    let w : State := { State.reset with script := [.write 0x006 0x00A5] }
    let m : State := { State.reset with script := [.writeLast 0x004] }
    let r : State := { runningWith Regs.zero .enc1 .exec 0 0 0 with schedule := [.host], script := [.writeLast 0x004] }
    (nextMover w = .host ∧ w.script = .write 0x006 0x00A5 :: []) ∧
    (nextMover m = .host ∧ m.script = .writeLast 0x004 :: [] ∧ m.reads = [] ∧
      { m with reads := [0x0282] }.reads = 0x0282 :: []) ∧
    (State.reset.seq = .idle ∧ State.reset.script = []) ∧
    (r.seq ≠ .idle ∧ r.status.fault = false ∧ r.schedule.head? = some .host ∧ nextMover r = .host) ∧
    nextMover { r with script := [] } = .core := by
  decide

theorem witness_StepAdvancesTheRunningCommand :
    let s := runningWith Regs.zero .enc1 .exec 0 0 0
    let t : State := { s with schedule := [.host] }
    (s.seq = .run .enc1 .exec 0 0 0 ∧ s.status.fault = false ∧ s.schedule.head? ≠ some .host) ∧
      (t.seq = .run .enc1 .exec 0 0 0 ∧ t.status.fault = false ∧ t.script = []) := by decide

theorem witness_PermSelectsSourcePositions :
    (0 < [2, 1, 2].length ∧ 2 < [2, 1, 2].length) ∧ ∀ e ∈ [2, 1, 2], 1 ≤ e ∧ e ≤ 2 := by decide

theorem witness_RotlIsCircular : 4 < 5 ∧ 0 < 5 ∧ 3 < 5 := by decide

theorem witness_TransformUnrolls :
    let k : Key := 0b1010000010#10
    let t := stdTables
    (0b0111#4 = slice (perm 8 t.ip 0b10100101#8) 0 4 ∧ 0b0100#4 = slice (perm 8 t.ip 0b10100101#8) 4 4 ∧
      0b0011#4 = roundF t 0b0100#4 (keySchedule t k .one) ^^^ 0b0111#4 ∧
      0b1001#4 = roundF t 0b0011#4 (keySchedule t k .two) ^^^ 0b0100#4) ∧
    (0b1001#4 = slice (perm 8 t.ip 0b11001010#8) 0 4 ∧ 0b0011#4 = slice (perm 8 t.ip 0b11001010#8) 4 4 ∧
      0b0100#4 = roundF t 0b0011#4 (keySchedule t k .two) ^^^ 0b1001#4 ∧
      0b0111#4 = roundF t 0b0100#4 (keySchedule t k .one) ^^^ 0b0011#4) := by decide +kernel

/-- Well-formed tables: for ConstantKeysGiveConstantRoundKeys, DecryptionUndoesEncryption, DoubleCipherRoundTrip,
CandidateIffPivotReencrypts and ResetValues; and ill-formed ones for IllFormedTablesHaltTheCore. -/
theorem witness_tables : stdTables.wf = true ∧ badTables.wf = false := by decide

/-- For both clauses of Enc1StoresEncryption, Dec1StoresDecryption, Enc2StoresDoubleEncryption,
Dec2StoresDoubleDecryption. -/
theorem witness_cipher_commands :
    State.reset.ready ∧
    (runningWith (keysAnd 0x282 0 0xA5) .enc1 .exec 0 0 0).executing .enc1 .exec 0 0 0 ∧
    (runningWith (keysAnd 0x282 0 0xCA) .dec1 .exec 0 0 0).executing .dec1 .exec 0 0 0 ∧
    (runningWith (keysAnd 0x2E9 0x1DA 0x48) .enc2 .exec 0 0 0).executing .enc2 .exec 0 0 0 ∧
    (runningWith (keysAnd 0x2E9 0x1DA 0x30) .dec2 .exec 0 0 0).executing .dec2 .exec 0 0 0 := by decide

theorem witness_KschedStoresRoundKey :
    ((1#2 : BitVec 2) = 1#2 ∨ (1#2 : BitVec 2) = 2#2) ∧ State.reset.ready ∧
    (runningWith (keysAnd 0x282 0 0) (.ksched 1) .exec 0 0 0).executing (.ksched 1) .exec 0 0 0 ∧
    (runningWith (keysAnd 0x282 0 0) (.ksched 2) .exec 0 0 0).executing (.ksched 2) .exec 0 0 0 := by decide

theorem witness_KschedRejectsOtherSelectors :
    ((0#2 : BitVec 2) = 0#2 ∨ (0#2 : BitVec 2) = 3#2) ∧ ((3#2 : BitVec 2) = 0#2 ∨ (3#2 : BitVec 2) = 3#2) ∧
    State.reset.ready := by decide

theorem witness_MitmFillsForwardAndBackward :
    (runningWith pairsK1 .mitm .fillF 0 0 0).executing .mitm .fillF 0 0 0 ∧
    (runningWith pairsK1 .mitm .fillF 1023 0 0).executing .mitm .fillF 1023 0 0 ∧
    (runningWith pairsK1 .mitm .fillB 1024 0 0).executing .mitm .fillB 1024 0 0 ∧
    (runningWith pairsK1 .mitm .fillB 1024 1023 0).executing .mitm .fillB 1024 1023 0 := by decide

/-- A hit, and a pair that is none at the end of a row and at the end of the scan. -/
theorem witness_MitmScansInLexOrder :
    ((scanningMitm pairsK1 0x2E9 0x1DA 1 1).executing .mitm .scan 0x2E9 0x1DA 0 ∧
      mitmHit (scanningMitm pairsK1 0x2E9 0x1DA 1 1) 0x2E9 0x1DA = true) ∧
    ((scanningMitm pairsK1 0 1022 1 2).executing .mitm .scan 0 1022 0 ∧
      mitmHit (scanningMitm pairsK1 0 1022 1 2) 0 1022 = false) ∧
    ((scanningMitm pairsK1 1022 1023 1 2).executing .mitm .scan 1022 1023 0 ∧
      mitmHit (scanningMitm pairsK1 1022 1023 1 2) 1022 1023 = false) ∧
    ((scanningMitm pairsK1 1023 1023 1 2).executing .mitm .scan 1023 1023 0 ∧
      mitmHit (scanningMitm pairsK1 1023 1023 1 2) 1023 1023 = false) := by decide +kernel

theorem witness_BruteScansInLexOrder :
    State.reset.ready ∧
    ((runningWith pairsK1 .brute .scan 0x2E9 0x1DA 0).executing .brute .scan 0x2E9 0x1DA 0 ∧
      verified stdTables pairsK1 0x2E9 0x1DA = true) ∧
    ((runningWith contradictoryPairs .brute .scan 0 1022 0).executing .brute .scan 0 1022 0 ∧
      verified stdTables contradictoryPairs 0 1022 = false) ∧
    ((runningWith contradictoryPairs .brute .scan 1022 1023 0).executing .brute .scan 1022 1023 0 ∧
      verified stdTables contradictoryPairs 1022 1023 = false) ∧
    ((runningWith contradictoryPairs .brute .scan 1023 1023 0).executing .brute .scan 1023 1023 0 ∧
      verified stdTables contradictoryPairs 1023 1023 = false) := by decide +kernel

/-- A block before the last, and the last. -/
theorem witness_CbcdDecryptsOneBlock :
    ((runningB0 2 0x26).executing .cbcd .blocks 0 0 2 ∧ 2 < (runningB0 2 0x26).regs.ctlen.toNat / 8 ∧
      2 + 1 < (runningB0 2 0x26).regs.ctlen.toNat / 8) ∧
    ((runningB0 3 0x7A).executing .cbcd .blocks 0 0 3 ∧ 3 < (runningB0 3 0x7A).regs.ctlen.toNat / 8 ∧
      3 + 1 = (runningB0 3 0x7A).regs.ctlen.toNat / 8) := by decide

/-- The lengths 12, 2056, 2048 and 0 (95_test_vectors.md section 8, B6, B7, B9, B5). -/
theorem witness_CbcdLengthCheck :
    (∀ l : BitVec 16, (idleWith { Regs.zero with ctlen := l } 0).ready) ∧
    (12#16).toNat % 8 ≠ 0 ∧ (2049#16).toNat % 8 ≠ 0 ∧
    ((2056#16).toNat % 8 = 0 ∧ 8 * 256 < (2056#16).toNat) ∧
    ((2048#16).toNat % 8 = 0 ∧ (2048#16).toNat ≤ 8 * 256) ∧
    ((runningWith Regs.zero .cbcd .blocks 0 0 0).executing .cbcd .blocks 0 0 0 ∧
      (runningWith Regs.zero .cbcd .blocks 0 0 0).regs.ctlen.toNat / 8 = 0) := by
  refine ⟨fun l => ⟨rfl, rfl, rfl⟩, ?_⟩
  decide

/-- A halted core, a busy one, and one that is neither: for NopChangesNothing, ClrClearsFlags, CommandWritePriority,
HostWriteRules, WrittenRegisterReadsBack. -/
theorem witness_gate :
    halted.status.fault = true ∧ halted.seq = .idle ∧
    ((runningWith Regs.zero .enc1 .exec 0 0 0).status.fault = false ∧
      (runningWith Regs.zero .enc1 .exec 0 0 0).status.busy = true) ∧
    (State.reset.status.fault = false ∧ State.reset.status.busy = false ∧ State.reset.seq = .idle) := by decide

/-- The three classes of reserved words, at their ends. -/
theorem witness_ReservedWordRaisesIllegalCmd :
    State.reset.ready ∧ (0x0040#16).extractLsb' 6 2 ≠ 0#2 ∧ 10 ≤ ((0x000A#16).extractLsb' 0 4).toNat ∧
    ((0x0011#16).extractLsb' 0 4 ≠ 5#4 ∧ (0x0011#16).extractLsb' 4 2 ≠ 0#2) := by decide

/-- The command words of the clauses of CommandWritePriority for an idle core, and one that passes every check. -/
theorem witness_CommandWritePriority :
    ((0x0000#16).setWidth 8 = 0x00#8 ∧ (0x0009#16).setWidth 8 = 0x09#8 ∧ (0x0035#16).setWidth 8 = 0x35#8 ∧
      (0x0008#16).setWidth 8 = 0x08#8) ∧
    ((idleWith { Regs.zero with ctlen := 2049 } 0).regs.ctlen.toNat % 8 ≠ 0 ∧
      (idleWith { Regs.zero with ctlen := 2056 } 0).regs.ctlen.toNat % 8 = 0 ∧
      2048 < (idleWith { Regs.zero with ctlen := 2056 } 0).regs.ctlen.toNat) ∧
    (let c : CmdWord := (0x0008#16).setWidth 8
     ¬(c.extractLsb' 6 2 ≠ 0#2 ∨ 10 ≤ (c.extractLsb' 0 4).toNat ∨
        (c.extractLsb' 0 4 ≠ 5#4 ∧ c.extractLsb' 4 2 ≠ 0#2)) ∧
      c ≠ 0x00 ∧ c ≠ 0x09 ∧ c ≠ 0x05 ∧ c ≠ 0x35 ∧
      (idleWith { Regs.zero with ctlen := 2048 } 0).regs.ctlen.toNat % 8 = 0 ∧
      (idleWith { Regs.zero with ctlen := 2048 } 0).regs.ctlen.toNat ≤ 2048) := by decide

theorem witness_ErrorOnlyAtAcceptance :
    let s : State := { State.reset with script := [.write 0x000 0x000A] }
    s.status.busy = s.seq.running ∧ s.status.err = false ∧ seen (step s) (fun t => t.status.err) = some true := by
  decide +kernel

/-- Next states of ENC1, DEC1, ENC2 and DEC2, issued and in execution. -/
theorem witness_CipherCommandsFrame :
    ∀ i ∈ [Instr.enc1, .dec1, .enc2, .dec2],
      (seen (exec i State.reset) (fun t => t.seq)).isSome = true ∧
      (seen (exec i (runningWith Regs.zero i .exec 0 0 0)) (fun t => t.seq)).isSome = true := by decide +kernel

/-- Next states of KSCHED with a legal and with an illegal selector. -/
theorem witness_KschedFrame :
    (seen (exec (.ksched 0) State.reset) (fun t => t.seq)).isSome = true ∧
    (seen (exec (.ksched 2) State.reset) (fun t => t.seq)).isSome = true ∧
    (seen (exec (.ksched 2) (runningWith Regs.zero (.ksched 2) .exec 0 0 0)) (fun t => t.seq)).isSome = true := by
  decide +kernel

/-- Next states of MITM and BRUTE: a store to FWD, a store to BWD, a step of SCAN that stores nothing. -/
theorem witness_SearchFrame :
    (seen (exec .mitm (runningWith pairsK1 .mitm .fillF 5 0 0)) (fun t => t.seq)).isSome = true ∧
    storedPlace .mitm (runningWith pairsK1 .mitm .fillF 5 0 0) = some (.fwd, 5) ∧
    (seen (exec .mitm (runningWith pairsK1 .mitm .fillB 1024 5 0)) (fun t => t.seq)).isSome = true ∧
    storedPlace .mitm (runningWith pairsK1 .mitm .fillB 1024 5 0) = some (.bwd, 5) ∧
    (seen (exec .brute (runningWith pairsK1 .brute .scan 5 5 0)) (fun t => t.seq)).isSome = true ∧
    storedPlace .brute (runningWith pairsK1 .brute .scan 5 5 0) = none := by decide +kernel

theorem witness_CbcdFrame :
    (seen (exec .cbcd (runningB0 3 0x7A)) (fun t => t.seq)).isSome = true ∧
    storedPlace .cbcd (runningB0 3 0x7A) = some (.ptbuf, 3) := by decide +kernel

theorem witness_ControlCommandsFrame :
    (seen (exec .nop State.reset) (fun t => t.seq)).isSome = true ∧
    (seen (exec .clr (runningWith Regs.zero .enc1 .exec 0 0 0)) (fun t => t.status.ovr)) = some true := by
  decide +kernel

/-- A step while a command runs that is no reset: of the core, and of the host with a lost write. -/
theorem witness_NoCommandWritesAnInput :
    let s := runningWith Regs.zero .enc1 .exec 0 0 0
    let t : State := { s with script := [.write 0x006 0x0011], schedule := [.host] }
    (s.status.busy = true ∧ resetNext s = false ∧ (seen (step s) (fun u => u.seq)).isSome = true) ∧
    (t.status.busy = true ∧ resetNext t = false ∧ seen (step t) (fun u => u.status.word) = some 0x21) := by
  decide +kernel

/-- A step that is a reset and one that is not, under well-formed tables and without a fault. -/
theorem witness_FaultOnlyFromReset :
    let s : State := { State.reset with script := [.reset] }
    (s.tables.wf = true ∧ s.status.fault = false ∧ resetNext s = true ∧
      seen (step s) (fun t => t.status.fault) = some false) ∧
    (seen (step State.reset) (fun t => t.status.fault) = some false ∧ resetNext State.reset = false) := by
  decide +kernel

/-- The ranges of the third clause of HostWriteRules, at their ends. -/
theorem witness_HostWriteRules :
    ∀ a ∈ [0x001#12, 0x003, 0x007, 0x008, 0x00B, 0x010, 0x016, 0x018, 0x01E, 0x3FF, 0x500, 0x800, 0xFFF],
      ((0x001 ≤ a ∧ a ≤ 0x003) ∨ a = 0x007 ∨ a = 0x008 ∨ (0x00B ≤ a ∧ a ≤ 0x010) ∨ (0x016 ≤ a ∧ a ≤ 0x018) ∨
        (0x01E ≤ a ∧ a ≤ 0x3FF) ∨ 0x500 ≤ a) := by
  simp

/-- CTBUF[0] and CTBUF[255] on an idle core: for both clauses. -/
theorem witness_WrittenCtbufBlockReadsBack : State.reset.ready ∧ 0 < 256 ∧ 255 < 256 := by decide

theorem witness_HostReadsChangeNothing :
    (let s : State := { State.reset with script := [.read 0x001] }
     nextMover s = .host ∧ s.script = .read 0x001 :: []) ∧
    ∀ a ∈ [0x000#12, 0x003, 0x00D, 0x010, 0x016, 0x018, 0x01E, 0x3FF, 0x500, 0x7FF, 0x900, 0xFFF],
      (a = 0x000 ∨ a = 0x003 ∨ (0x00D ≤ a ∧ a ≤ 0x010) ∨ (0x016 ≤ a ∧ a ≤ 0x018) ∨ (0x01E ≤ a ∧ a ≤ 0x3FF) ∨
        (0x500 ≤ a ∧ a ≤ 0x7FF) ∨ 0x900 ≤ a) := by
  refine ⟨by decide, ?_⟩
  simp

/-- ERRCODE at each of its values. -/
theorem witness_StatusWordLayout :
    ∀ e ∈ [ErrCode.none, .illegalCmd, .badSelector, .badLength, .lengthRange, .tableFault],
      { State.reset with errcode := e }.errcode = e := by decide

/-- A block inside the window of a running CBCD, one beyond it, and an idle core. -/
theorem witness_PtbufReadWhileCbcdRuns :
    ((runningB0 0 0x9C).inProgress .cbcd = true ∧ 3 < (runningB0 0 0x9C).regs.ctlen.toNat / 8 ∧ 3 < 256) ∧
    ((runningB0 0 0x9C).regs.ctlen.toNat / 8 ≤ 4 ∧ 255 < 256) ∧ State.reset.inProgress .cbcd = false := by decide

/-- A step that changes DOUT, two that change RKEY, one that changes FK1; none of them a reset. -/
theorem witness_ResultRegisterWriters :
    let w : State := { idleWith { Regs.zero with rkey := 0xA4 } 0 with script := [.write 0x004 0x0282] }
    seen (step (runningWith (keysAnd 0x282 0 0xA5) .enc1 .exec 0 0 0)) (fun t => t.regs.dout) = some 0xCA ∧
    seen (step (runningWith (keysAnd 0x282 0 0) (.ksched 2) .exec 0 0 0)) (fun t => t.regs.rkey) = some 0x43 ∧
    (seen (step w) (fun t => t.regs.rkey) = some 0 ∧ resetNext w = false) ∧
    seen (step (scanningMitm pairsK1 0x2E9 0x1DA 1 1)) (fun t => t.regs.fk1) = some 0x2E9 := by decide +kernel

/-- A lost write; and a CLR that clears OVR. -/
theorem witness_OverrunIsSticky :
    let s : State := { runningWith Regs.zero .enc1 .exec 0 0 0 with script := [.write 0xFFF 0], schedule := [.host] }
    let t : State := { State.reset with status := { Status.zero with ovr := true }, script := [.write 0x000 0x0009] }
    (nextWrite s = some (0xFFF, 0) ∧ s.status.busy = true ∧ s.status.fault = false ∧
      seen (step s) (fun u => u.status.ovr) = some true) ∧
    (t.status.busy = t.seq.running ∧ t.status.ovr = true ∧ resetNext t = false ∧
      seen (step t) (fun u => u.status.ovr) = some false) := by decide +kernel

/-- WAIT on an idle core, and while a command runs. -/
theorem witness_WaitPollsStatus :
    let s : State := { State.reset with script := [.wait] }
    let t : State := { runningWith Regs.zero .enc1 .exec 0 0 0 with script := [.wait], schedule := [.host, .core] }
    (nextMover s = .host ∧ s.script = .wait :: []) ∧ (nextMover t = .host ∧ t.script = .wait :: []) := by decide

/-- Literals that just fit KEY1, ERRCODE, CTLEN and a block, the first and the last block of a buffer, a command with a word,
and strings of literals and of LDCT. -/
theorem witness_PseudoLinesExpand :
    ([2, 12, 2, 6] : List (Fin 16)).length = 2 * 2 ∧ 0 < 2 ∧ 1 < 2 ∧
    ((Literal.hex [3, 15, 15]).value < 2 ^ Reg.key1.width ∧ (Literal.dec 15).value < 2 ^ Reg.errcode.width ∧
      (Literal.dec 65535).value < 2 ^ Reg.ctlen.width ∧ (Literal.hex [15, 15]).value < 2 ^ 8) ∧
    0 < 256 ∧ 255 < 256 ∧ (Instr.ksched 2).wf = true ∧ [true] ≠ [] ∧ ([10] : List (Fin 16)) ≠ [] := by decide

theorem witness_IllFormedTablesHaltTheCore :
    let w : State := { halted with script := [.write 0x000 0x0009] }
    let r : State := { halted with script := [.read 0x002] }
    badTables.wf = false ∧ (w.status.fault = true ∧ w.seq = .idle ∧ w.script = .write 0x000 0x0009 :: []) ∧
    (r.status.fault = true ∧ r.seq = .idle ∧ r.script = .read 0x002 :: []) := by decide

/-- A reset that arrives while CBCD is at block 1, with block 0 written. -/
theorem witness_ResetEventEndsTheEpisode :
    let s : State := { runningB0 1 0x2C with ptbuf := [(0, 0x48)], script := [.reset], schedule := [.host] }
    nextMover s = .host ∧ s.script = .reset :: [] ∧ s.seq = .run .cbcd .blocks 0 0 1 ∧ 0 < 1 ∧
      Memory.read s.ptbuf 0 = some 0x48 := by decide

/-- The flags of a command in execution under STD fit together, and its memories are canonical. -/
theorem running_flags_and_memories (r : Regs) (op : Instr) (ph : Phase) (i j n : Nat) :
    FlagsInv (runningWith r op ph i j n) ∧ MemoryInv (runningWith r op ph i j n) := by
  refine ⟨⟨rfl, ?_, ?_, ?_, ?_, ?_, ?_⟩, ⟨rfl, rfl, rfl, rfl, rfl⟩⟩
  · show false = !stdTables.wf
    rw [test_std_tables_wf]
    rfl
  · intro h
    cases h
  · intro _
    exact ⟨⟨fun h => (by cases h), fun h => absurd rfl h⟩, fun h => (by cases h)⟩
  · intro h
    cases h
  · intro h
    cases h
  · intro _
    exact ⟨rfl, rfl, rfl, rfl⟩

/-- Every cipher command at the start of its episode meets the invariant: for StepKeepsInvariant, EveryEpisodeEnds and
HostTrafficCannotDisturb. -/
theorem witness_running_inv :
    Inv (runningWith (keysAnd 0x282 0 0xA5) .enc1 .exec 0 0 0) ∧ Inv (runningWith pairsK1 .mitm .fillF 0 0 0) ∧
    Inv (runningWith pairsK1 .brute .scan 0 0 0) := by
  refine ⟨⟨(running_flags_and_memories _ _ _ _ _ _).1, (running_flags_and_memories _ _ _ _ _ _).2, ?_⟩,
    ⟨(running_flags_and_memories _ _ _ _ _ _).1, (running_flags_and_memories _ _ _ _ _ _).2, ?_⟩,
    ⟨(running_flags_and_memories _ _ _ _ _ _).1, (running_flags_and_memories _ _ _ _ _ _).2, ?_⟩⟩
  · exact ⟨⟨rfl, rfl, rfl, rfl⟩, trivial⟩
  · exact ⟨⟨by decide, rfl, rfl⟩, fun k hk => absurd hk (Nat.not_lt_zero k)⟩
  · refine ⟨⟨by decide, by decide, rfl⟩, fun a b _ _ h => ?_⟩
    rcases h with h | ⟨-, h⟩
    · exact absurd h (Nat.not_lt_zero a)
    · exact absurd h (Nat.not_lt_zero b)

/-- A host script without a reset beside a running command. -/
theorem witness_HostTrafficCannotDisturb :
    let s := runningWith (keysAnd 0x282 0 0xA5) .enc1 .exec 0 0 0
    Inv s ∧ s.seq.running = true ∧ Action.reset ∉ s.script ∧ Action.reset ∉ [Action.write 0x006 0, .wait] :=
  ⟨witness_running_inv.1, rfl, by decide, by decide⟩

/-- An idle core with data in its registers and CTBUF meets the invariant: for SearchesReportTheLeastVerifiedPair,
MitmAndBruteAgree and CbcdDecryptsTheStream (with CTLEN = 2048 and CTLEN = 0). -/
theorem witness_idle_inv (r : Regs) (v : Block) :
    Inv (idleWith r v) ∧ (idleWith r v).ready ∧ (idleWith r v).script = [] ∧ (idleWith r v).schedule = [] := by
  refine ⟨⟨⟨rfl, ?_, ?_, ?_, ?_, ?_, ?_⟩, ⟨rfl, rfl, rfl, rfl, rfl⟩, trivial⟩, ⟨rfl, rfl, rfl⟩, rfl, rfl⟩
  · show false = !stdTables.wf
    rw [test_std_tables_wf]
    rfl
  · intro h
    cases h
  · intro _
    exact ⟨⟨fun h => (by cases h), fun h => absurd rfl h⟩, fun h => (by cases h)⟩
  · intro h
    cases h
  · intro h
    cases h
  · intro h
    cases h

/-- The five pairs of vector K1 were made by one key pair: for the last clause of MitmAndBruteAgree. -/
theorem witness_MitmAndBruteAgree :
    ∀ n ∈ PairNo.all, cipherE2 stdTables (pairsK1.p.get n) 0x2E9 0x1DA = pairsK1.c.get n := by decide +kernel

theorem witness_CbcdDecryptsTheStream :
    ((2048#16).toNat % 8 = 0 ∧ (2048#16).toNat ≤ 2048) ∧ ((0#16).toNat % 8 = 0 ∧ (0#16).toNat ≤ 2048) := by decide

/-- Two streams that differ in one block (95_test_vectors.md section 8, B0 and B1). -/
theorem witness_CbcErrorPropagation :
    let s := runningB0 0 0x9C
    let t : State := { s with ctbuf := Memory.write s.ctbuf 1 0x27 }
    s.tables.wf = true ∧ t.tables = s.tables ∧ t.regs = s.regs ∧
    (∀ m, m ≠ 1 → t.blockAt .ctbuf m = s.blockAt .ctbuf m) ∧ t.blockAt .ctbuf 1 ≠ s.blockAt .ctbuf 1 := by
  refine ⟨test_std_tables_wf, rfl, rfl, fun m hm => ?_, by decide⟩
  exact State.blockAt_storeBlock_other _ (sp := .ctbuf) 0x27 (.inr hm)

end Sys2Proof.Tests
end

section
/-! The cipher's inverse laws: decryption undoes encryption under a well-formed TABLES (43_block_cipher.md R122). They
are what ties MITM's candidate test to the verified set. -/

namespace Sys2Proof.Machine

/-! ### The initial permutation and its inverse -/

/-- The entry of a selection table at a position inside it lies in its range (10_state.md R36). -/
theorem selectionOk_getD {len width : Nat} {T : List Nat} (h : selectionOk len width T = true) {i : Nat}
    (hi : i < len) : 1 ≤ T.getD i 0 ∧ T.getD i 0 ≤ width := by
  simp only [selectionOk, Bool.and_eq_true, beq_iff_eq, List.all_eq_true, decide_eq_true_eq] at h
  obtain ⟨hlen, hrange⟩ := h
  have hiT : i < T.length := hlen ▸ hi
  rw [List.getD_eq_getElem T 0 hiT]
  exact hrange _ (List.getElem_mem hiT)

/-- What WF(TABLES) says of IP and IP_INV. -/
theorem Tables.wf_ip {t : Tables} (h : t.wf = true) :
    selectionOk 8 8 t.ipInv = true ∧ ∀ i < 8, t.ip.getD (t.ipInv.getD i 0 - 1) 0 = i + 1 := by
  simp only [Tables.wf, inversePair, Bool.and_eq_true, List.all_eq_true, List.mem_range, beq_iff_eq] at h
  exact ⟨h.1.1.1.1.1.2, h.2⟩

theorem perm_ipInv_ip {t : Tables} (h : t.wf = true) (v : Block) : perm 8 t.ipInv (perm 8 t.ip v) = v := by
  obtain ⟨hrange, hinv⟩ := Tables.wf_ip h
  refine eq_of_bit_eq fun i hi => ?_
  have hrange := selectionOk_getD hrange hi
  have hpos : t.ipInv.getD i 0 - 1 < 8 := by omega
  simp only [perm, bit_vecOf, hinv i hi, hi, hpos, decide_true, Bool.true_and, Nat.add_sub_cancel]

/-- The other order: the blocks are finitely many, so IP is onto. -/
theorem perm_ip_ipInv {t : Tables} (h : t.wf = true) (v : Block) : perm 8 t.ip (perm 8 t.ipInv v) = v := by
  have hinj : Function.Injective (fun v : Block => perm 8 t.ip v) :=
    Function.LeftInverse.injective (g := fun v : Block => perm 8 t.ipInv v) (perm_ipInv_ip h)
  obtain ⟨w, rfl⟩ := Finite.surjective_of_injective hinj v
  exact congrArg (perm 8 t.ip) (perm_ipInv_ip h w)

/-! ### The Feistel rounds -/

/-- A round between two swaps of the halves undoes itself, whatever the round function is. -/
theorem feistelRound_swap (t : Tables) (k : Key) (lr : Half × Half) (s : Selector) :
    feistelRound t k (feistelRound t k lr s).swap s = lr.swap := by
  simp only [feistelRound, Prod.swap, xor_xor_cancel]

/-- The rounds in the other order, between two swaps, undo the rounds. -/
theorem foldl_feistelRound_swap (t : Tables) (k : Key) (ss : List Selector) (lr : Half × Half) :
    ss.reverse.foldl (feistelRound t k) (ss.foldl (feistelRound t k) lr).swap = lr.swap := by
  induction ss generalizing lr with
  | nil => rfl
  | cons s ss ih => simp [List.foldl_append, ih, feistelRound_swap]

/-! ### The block cipher -/

/-- `transform` with the selectors of one direction undoes it with those of the other. -/
theorem transform_transform {t : Tables} (h : t.wf = true) (b : Block) (k : Key) {dir dir' : Direction}
    (hdir : dir'.selectors = dir.selectors.reverse) : transform t (transform t b k dir) k dir' = b := by
  unfold transform
  simp only [perm_ip_ipInv h, hdir]
  set p := perm 8 t.ip b with hp
  set lr := dir.selectors.foldl (feistelRound t k) (slice p 0 4, slice p 4 4) with hlr
  have hundo : dir.selectors.reverse.foldl (feistelRound t k) lr.swap = (slice p 4 4, slice p 0 4) :=
    foldl_feistelRound_swap t k dir.selectors (slice p 0 4, slice p 4 4)
  obtain ⟨hl, hr⟩ := slice_append lr.2 lr.1
  rw [hl, hr, show (lr.2, lr.1) = lr.swap from rfl, hundo, append_slices, hp, perm_ipInv_ip h]

theorem cipherD_cipherE {t : Tables} (h : t.wf = true) (b : Block) (k : Key) :
    cipherD t (cipherE t b k) k = b := transform_transform h b k rfl

theorem cipherE_cipherD {t : Tables} (h : t.wf = true) (b : Block) (k : Key) :
    cipherE t (cipherD t b k) k = b := transform_transform h b k rfl

/-- The forward and the backward value of a pair of keys meet exactly when the pair re-encrypts the pivot
(45_key_recovery.md R145). -/
theorem cipherE_eq_cipherD_iff {t : Tables} (h : t.wf = true) (p c : Block) (k1 k2 : Key) :
    cipherE t p k1 = cipherD t c k2 ↔ cipherE2 t p k1 k2 = c := by
  constructor
  · intro he
    rw [cipherE2, he, cipherE_cipherD h]
  · rintro rfl
    rw [cipherE2, cipherD_cipherE h]

end Sys2Proof.Machine
end

section
/-! The host port at the addresses of the map: what an access does at each register's address and at the addresses
that stand for no writable or no readable place (10_state.md R20, R31; 20_memory.md R51, R52). -/

namespace Sys2Proof.Machine

/-! ### The address map from the side of its addresses -/

theorem Reg.mem_all (r : Reg) : r ∈ Reg.all := by
  cases r with
  | p n => cases n <;> decide
  | c n => cases n <;> decide
  | _ => decide

/-- No other address than its own leads to a register. -/
theorem addr_of_target_reg {a : HostAddr} {r : Reg} (h : target a = .reg r) : r.addr = a := by
  unfold target at h
  split at h
  · cases h
  · split at h
    · cases h
    · split at h
      · next r' hfind =>
        cases h
        simpa using List.find?_some hfind
      · cases h

/-- The addresses that lead to CTBUF (20_memory.md R51). -/
theorem range_of_target_ctbuf {a : HostAddr} {k : Nat} (h : target a = .ctbuf k) :
    0x400 ≤ a.toNat ∧ a.toNat < 0x500 := by
  unfold target at h
  split at h
  · next hr => exact hr
  · split at h
    · cases h
    · split at h <;> cases h

/-- The addresses that lead to PTBUF (20_memory.md R51). -/
theorem range_of_target_ptbuf {a : HostAddr} {k : Nat} (h : target a = .ptbuf k) :
    0x800 ≤ a.toNat ∧ a.toNat < 0x900 := by
  unfold target at h
  split at h
  · cases h
  · split at h
    · next hr => exact hr
    · split at h <;> cases h

/-! ### Accesses at a register's address -/

theorem hostRead_addr (s : State) (r : Reg) : hostRead r.addr s = s.readReg r := by
  simp only [hostRead, target_addr]

theorem hostWrite_addr {s : State} {r : Reg} (v : HostWord) (hr : r ≠ .cmd) (hb : s.status.busy = false)
    (hf : s.status.fault = false) : hostWrite r.addr v s = .next (s.writeReg r v) := by
  rw [hostWrite, State.gated_ready _ hf hb]
  simp only [target_addr]

/-- The registers that hold data of the host and that a host write therefore changes (10_state.md R20). -/
def Reg.hostWritable (r : Reg) : Prop :=
  r = .key1 ∨ r = .key2 ∨ r = .din ∨ r = .iv ∨ r = .ctlen ∨ (∃ n, r = .p n) ∨ (∃ n, r = .c n)

@[simp] theorem PairFile.get_set_same (f : PairFile) (n : PairNo) (b : Block) : (f.set n b).get n = b := by
  cases n <;> rfl

theorem PairFile.get_set_other (f : PairFile) {n m : PairNo} (b : Block) (h : m ≠ n) :
    (f.set n b).get m = f.get m := by
  cases n <;> cases m <;> simp_all [PairFile.get, PairFile.set]

/-- Truncated to a register and extended to the bus again (10_state.md R31 (a), (b)). -/
theorem setWidth_setWidth_bus (w : Nat) (v : HostWord) :
    (v.setWidth w).setWidth 16 = BitVec.ofNat 16 (v.toNat % 2 ^ w) := by
  rw [← BitVec.ofNat_toNat, BitVec.toNat_setWidth]

/-- A written register reads back the low bits of what was written (10_state.md R31 (a), (b)). -/
theorem State.readReg_writeReg_same (s : State) {r : Reg} (v : HostWord) (hr : r.hostWritable) :
    (s.writeReg r v).readReg r = BitVec.ofNat 16 (v.toNat % 2 ^ r.width) := by
  have hbus (w : Nat) := setWidth_setWidth_bus w v
  obtain rfl | rfl | rfl | rfl | rfl | ⟨n, rfl⟩ | ⟨n, rfl⟩ := hr
  · exact hbus 10
  · exact hbus 10
  · exact hbus 8
  · exact hbus 8
  · exact (BitVec.setWidth_eq _).symm.trans ((congrArg _ (BitVec.setWidth_eq v).symm).trans (hbus 16))
  · exact (congrArg _ (PairFile.get_set_same s.regs.p n _)).trans (hbus 8)
  · exact (congrArg _ (PairFile.get_set_same s.regs.c n _)).trans (hbus 8)

/-- A write to one register leaves the reading of every other, but for RKEY on a write to KEY1 (10_state.md R23). -/
theorem State.readReg_writeReg_other (s : State) {r r' : Reg} (v : HostWord) (hne : r' ≠ r)
    (hkey : r = .key1 → r' ≠ .rkey) : (s.writeReg r v).readReg r' = s.readReg r' := by
  cases r with
  | p n =>
    cases r' with
    | p m =>
      have hm : m ≠ n := fun h => hne (h ▸ rfl)
      simp [State.readReg, Regs.write, PairFile.get_set_other _ _ hm]
    | _ => rfl
  | c n =>
    cases r' with
    | c m =>
      have hm : m ≠ n := fun h => hne (h ▸ rfl)
      simp [State.readReg, Regs.write, PairFile.get_set_other _ _ hm]
    | _ => rfl
  | key1 => cases r' <;> simp_all [State.readReg, Regs.write]
  | key2 => cases r' <;> simp_all [State.readReg, Regs.write]
  | din => cases r' <;> simp_all [State.readReg, Regs.write]
  | iv => cases r' <;> simp_all [State.readReg, Regs.write]
  | ctlen => cases r' <;> simp_all [State.readReg, Regs.write]
  | _ => rfl

/-- Settles O40: every access stands at the address of a register, and the laws of `readReg` and `writeReg` say what
it does. -/
theorem writtenRegisterReadsBack : Obligations.WrittenRegisterReadsBack := by
  refine ⟨fun s => ?_, fun s v hb hf => ?_, fun s r v hb hf hr => ?_⟩
  · have hread := hostRead_addr s
    exact ⟨hread .key1, hread .key2, hread .din, hread .dout, hread .rkey, hread .iv, hread .ctlen, hread .fk1,
      hread .fk2, hread (.p .one), hread (.p .two), hread (.p .three), hread (.p .four), hread (.p .five),
      hread (.c .one), hread (.c .two), hread (.c .three), hread (.c .four), hread (.c .five)⟩
  · have hwrite {r : Reg} (hr : r ≠ .cmd) := hostWrite_addr v hr hb hf
    exact ⟨hwrite (r := .key1) nofun, hwrite (r := .key2) nofun, hwrite (r := .din) nofun, hwrite (r := .iv) nofun,
      hwrite (r := .ctlen) nofun, hwrite (r := .p .one) nofun, hwrite (r := .p .two) nofun,
      hwrite (r := .p .three) nofun, hwrite (r := .p .four) nofun, hwrite (r := .p .five) nofun,
      hwrite (r := .c .one) nofun, hwrite (r := .c .two) nofun, hwrite (r := .c .three) nofun,
      hwrite (r := .c .four) nofun, hwrite (r := .c .five) nofun⟩
  · have hcmd : r ≠ .cmd := by rintro rfl; simp at hr
    refine ⟨s.writeReg r v, hostWrite_addr v hcmd hb hf, ?_, ?_, ?_⟩
    · rw [hostRead_addr, State.readReg_writeReg_same s v hr]
    · rintro rfl
      rw [hostRead_addr]
      rfl
    · intro r' hne hkey
      rw [hostRead_addr, hostRead_addr, State.readReg_writeReg_other s v hne hkey]

/-! ### Addresses where an access does nothing -/

/-- The addresses that ignore a write: of the read-only registers, of PTBUF and of no place at all (10_state.md
R31 (c), 20_memory.md R52). -/
def ignoresWrites (a : HostAddr) : Prop :=
  (0x001 ≤ a ∧ a ≤ 0x003) ∨ a = 0x007 ∨ a = 0x008 ∨ (0x00B ≤ a ∧ a ≤ 0x010) ∨ (0x016 ≤ a ∧ a ≤ 0x018) ∨
    (0x01E ≤ a ∧ a ≤ 0x3FF) ∨ 0x500 ≤ a

theorem ignoresWrites_reg {r : Reg} (h : ignoresWrites r.addr) :
    r ∈ [Reg.status, .errcode, .dout, .rkey, .fk1, .fk2] := by
  have hall : ∀ r ∈ Reg.all, ignoresWrites r.addr → r ∈ [Reg.status, .errcode, .dout, .rkey, .fk1, .fk2] := by
    unfold ignoresWrites
    decide
  exact hall r r.mem_all h

theorem ignoresWrites_not_ctbuf {a : HostAddr} (h : ignoresWrites a) : ¬(0x400 ≤ a.toNat ∧ a.toNat < 0x500) := by
  unfold ignoresWrites at h
  bv_omega

/-- A write that has passed the gate does nothing at such an address. -/
theorem hostWrite_ignored {s : State} {a : HostAddr} (v : HostWord) (h : ignoresWrites a)
    (hf : s.status.fault = false) (hb : s.status.busy = false) : hostWrite a v s = .next s := by
  rw [hostWrite, State.gated_ready _ hf hb]
  split
  · next ht => exact absurd (ignoresWrites_reg (addr_of_target_reg ht ▸ h)) (by decide)
  · next r hr ht =>
    have hro := ignoresWrites_reg (addr_of_target_reg ht ▸ h)
    simp only [List.mem_cons, List.not_mem_nil, or_false] at hro
    obtain rfl | rfl | rfl | rfl | rfl | rfl := hro <;> rfl
  · next ht => exact absurd (range_of_target_ctbuf ht) (ignoresWrites_not_ctbuf h)
  · rfl
  · rfl

/-- Settles O39: the gate's two refusals, and where a write that passes it does nothing. -/
theorem hostWriteRules : Obligations.HostWriteRules := by
  intro s a v
  exact ⟨State.gated_halted _, State.gated_busy _, fun hf hb h => hostWrite_ignored v h hf hb,
    fun hf hb => hostWrite_addr (r := .key1) v nofun hb hf⟩

/-- The addresses that read 0: CMD's and those of no place at all (10_state.md R28, 20_memory.md R52). -/
def readsZero (a : HostAddr) : Prop :=
  a = 0x000 ∨ a = 0x003 ∨ (0x00D ≤ a ∧ a ≤ 0x010) ∨ (0x016 ≤ a ∧ a ≤ 0x018) ∨ (0x01E ≤ a ∧ a ≤ 0x3FF) ∨
    (0x500 ≤ a ∧ a ≤ 0x7FF) ∨ 0x900 ≤ a

theorem readsZero_reg {r : Reg} (h : readsZero r.addr) : r = .cmd := by
  have hall : ∀ r ∈ Reg.all, readsZero r.addr → r = .cmd := by
    unfold readsZero
    decide
  exact hall r r.mem_all h

theorem readsZero_not_buffer {a : HostAddr} (h : readsZero a) :
    ¬(0x400 ≤ a.toNat ∧ a.toNat < 0x500) ∧ ¬(0x800 ≤ a.toNat ∧ a.toNat < 0x900) := by
  unfold readsZero at h
  bv_omega

theorem hostRead_zero {a : HostAddr} (h : readsZero a) (s : State) : hostRead a s = 0 := by
  obtain ⟨hct, hpt⟩ := readsZero_not_buffer h
  unfold hostRead
  split
  · next ht =>
    obtain rfl := readsZero_reg (addr_of_target_reg ht ▸ h)
    rfl
  · next ht => exact absurd (range_of_target_ctbuf ht) hct
  · next ht => exact absurd (range_of_target_ptbuf ht) hpt
  · rfl

/-- Settles O42: a read is recorded and nothing else, and no place is behind the addresses that read 0. -/
theorem hostReadsChangeNothing : Obligations.HostReadsChangeNothing := by
  refine ⟨fun s a rest hm hs => ⟨hostRead a s, ?_, rfl⟩, fun s a h => hostRead_zero h s⟩
  simp only [step, hm, hostTurn, State.takeTurn_script, hs]
  cases hrun : s.seq.running <;> simp only [State.takeTurn, hrun] <;> rfl

/-! ### STATUS and ERRCODE -/

theorem Status.word_bits (f : Status) :
    f.word.getLsbD 0 = f.busy ∧ f.word.getLsbD 1 = f.done ∧ f.word.getLsbD 2 = f.found ∧
    f.word.getLsbD 3 = f.err ∧ f.word.getLsbD 4 = f.fault ∧ f.word.getLsbD 5 = f.ovr ∧
    f.word.getLsbD 6 = false ∧ f.word.getLsbD 7 = false := by
  obtain ⟨busy, done, found, err, fault, ovr⟩ := f
  revert busy done found err fault ovr
  decide

theorem Status.word_zero : Status.zero.word = 0x00 := by decide

/-- Settles O43: the bits of the STATUS word, and the reading of ERRCODE code by code. -/
theorem statusWordLayout : Obligations.StatusWordLayout := by
  refine ⟨Status.word_bits, fun s => ?_⟩
  have herr : hostRead 0x002 s = s.errcode.code.setWidth 16 := hostRead_addr s .errcode
  refine ⟨hostRead_addr s .status, ?_, ?_, ?_, ?_, ?_, ?_⟩ <;>
    (intro he; rw [herr, he]; rfl)

/-- Settles O49: under a well-formed TABLES the self-check finds nothing, and every register holds 0. -/
theorem resetValues : Obligations.ResetValues := by
  intro t hw
  have hreset : State.resetWith t = State.cleared t := if_pos hw
  rw [hreset]
  refine ⟨Status.word_zero, rfl, rfl, rfl, fun r => ?_⟩
  rw [hostRead_addr]
  cases r with
  | p n => cases n <;> rfl
  | c n => cases n <;> rfl
  | status => exact congrArg (BitVec.setWidth 16) Status.word_zero
  | _ => rfl

end Sys2Proof.Machine
end

section
/-! What a host can change of a core beside its own data, and what a step does while a command runs. -/

namespace Sys2Proof.Machine

/-! ### The host's side of the state -/

/-- The core of `s` beside another host: the host's own data, and the one flag that a busy core lets a host set
(10_state.md R31 (d)). -/
def State.withHostSide (s : State) (ovr : Bool) (script : List Action) (schedule : List Agent)
    (reads : List HostWord) : State :=
  { s with status := { s.status with ovr := ovr }, script := script, schedule := schedule, reads := reads }

section
variable (s : State) (ovr : Bool) (script : List Action) (schedule : List Agent) (reads : List HostWord)

@[simp] theorem State.withHostSide_tables : (s.withHostSide ovr script schedule reads).tables = s.tables := rfl
@[simp] theorem State.withHostSide_regs : (s.withHostSide ovr script schedule reads).regs = s.regs := rfl
@[simp] theorem State.withHostSide_status :
    (s.withHostSide ovr script schedule reads).status = { s.status with ovr := ovr } := rfl
@[simp] theorem State.withHostSide_errcode : (s.withHostSide ovr script schedule reads).errcode = s.errcode := rfl
@[simp] theorem State.withHostSide_seq : (s.withHostSide ovr script schedule reads).seq = s.seq := rfl
@[simp] theorem State.withHostSide_script : (s.withHostSide ovr script schedule reads).script = script := rfl
@[simp] theorem State.withHostSide_schedule :
    (s.withHostSide ovr script schedule reads).schedule = schedule := rfl
@[simp] theorem State.withHostSide_resets : (s.withHostSide ovr script schedule reads).resets = s.resets := rfl
@[simp] theorem State.withHostSide_mem (sp : Space) :
    (s.withHostSide ovr script schedule reads).mem sp = s.mem sp := by cases sp <;> rfl

theorem State.withHostSide_ite (p : Prop) [Decidable p] (t u : State) :
    (if p then t else u).withHostSide ovr script schedule reads =
      if p then t.withHostSide ovr script schedule reads else u.withHostSide ovr script schedule reads := by
  split <;> rfl

theorem scanStep_withHostSide (op : Instr) {hit : State → Nat → Nat → Bool} (i j n : Nat)
    (hhit : hit (s.withHostSide ovr script schedule reads) i j = hit s i j) :
    scanStep op hit i j n (s.withHostSide ovr script schedule reads) =
      (scanStep op hit i j n s).withHostSide ovr script schedule reads := by
  simp only [scanStep, hhit, State.withHostSide_ite]
  rfl

/-- A sequencer step neither reads nor writes what a host can change while a command runs. -/
theorem advanceOf_withHostSide (op : Instr) :
    advanceOf op (s.withHostSide ovr script schedule reads) =
      (advanceOf op s).withHostSide ovr script schedule reads := by
  cases op with
  | ksched sel => simp only [advanceOf]; cases Selector.ofField sel <;> rfl
  | mitm =>
    simp only [advanceOf, advanceMitm, State.withHostSide_seq]
    split
    · rfl
    · simp only [fillForward, State.withHostSide_ite]; rfl
    · simp only [fillBackward, State.withHostSide_ite]; rfl
    · exact scanStep_withHostSide s ovr script schedule reads _ _ _ _ rfl
  | brute =>
    simp only [advanceOf, advanceBrute, State.withHostSide_seq]
    split
    · rfl
    · exact scanStep_withHostSide s ovr script schedule reads _ _ _ _ rfl
  | cbcd =>
    simp only [advanceOf, advanceCbcd, State.withHostSide_seq]
    split
    · rfl
    · simp only [State.withHostSide_ite]; rfl
  | _ => rfl

end

end Sys2Proof.Machine
end

section
/-! What a command leaves alone whatever it does (10_state.md R37, R38), and what a step is while a command runs
(10_state.md R34). -/

namespace Sys2Proof.Machine

/-! ### Frames of every command -/

/-- No command touches TABLES or the outside world. -/
theorem exec_sameSurroundings {i : Instr} {s t : State} (h : exec i s = .next t) : SameSurroundings s t := by
  obtain ⟨-, rfl⟩ | ⟨-, -, -, rfl⟩ | ⟨-, -, rfl⟩ | ⟨-, e, -, -, rfl⟩ | ⟨-, -, -, -, -, rfl⟩ |
    ⟨-, -, -, -, -, rfl⟩ := exec_cases h
  · exact ⟨rfl, rfl, rfl, rfl, rfl⟩
  · exact ⟨rfl, rfl, rfl, rfl, rfl⟩
  · exact ⟨rfl, rfl, rfl, rfl, rfl⟩
  · exact ⟨rfl, rfl, rfl, rfl, rfl⟩
  · obtain ⟨-, htables, -, -, -, -, -, -, -, hscript, hschedule, hreads, hresets⟩ := startOf_keeps i s.openEpisode
    exact ⟨htables, hscript, hschedule, hreads, hresets⟩
  · obtain ⟨htables, -, -, -, -, -, -, hscript, hschedule, hreads, hresets, -⟩ := advanceOf_keeps i s
    exact ⟨htables, hscript, hschedule, hreads, hresets⟩

/-- A state that differs in result registers at most, beside its flags and sequencer, has the same inputs. -/
theorem SameInputs.of_results {s t : State}
    (hregs : t.regs = { s.regs with
      dout := t.regs.dout, rkey := t.regs.rkey, fk1 := t.regs.fk1, fk2 := t.regs.fk2 })
    (hctbuf : t.ctbuf = s.ctbuf) (hresets : t.resets = s.resets) : SameInputs s t := by
  rw [SameInputs, hregs]
  exact ⟨rfl, rfl, rfl, rfl, rfl, rfl, rfl, fun k => State.blockAt_congr (sp := .ctbuf) hctbuf hresets k⟩

/-- No command writes an input of a command (10_state.md R37). -/
theorem exec_sameInputs {i : Instr} {s t : State} (h : exec i s = .next t) : SameInputs s t := by
  obtain ⟨-, rfl⟩ | ⟨-, -, -, rfl⟩ | ⟨-, -, rfl⟩ | ⟨-, e, -, -, rfl⟩ | ⟨-, -, -, -, -, rfl⟩ |
    ⟨-, -, -, -, -, rfl⟩ := exec_cases h
  · exact .of_results rfl rfl rfl
  · exact .of_results rfl rfl rfl
  · exact .of_results rfl rfl rfl
  · exact .of_results rfl rfl rfl
  · obtain ⟨hregs, -, -, -, -, -, -, -, hmem, -, -, -, hresets⟩ := startOf_keeps i s.openEpisode
    exact .of_results (by rw [hregs]; rfl) (hmem .ctbuf) hresets
  · obtain ⟨-, -, -, -, -, hctbuf, -, -, -, -, hresets, hregs⟩ := advanceOf_keeps i s
    exact .of_results hregs hctbuf hresets

/-! ### Steps while a command runs -/

/-- The core's turn is the meaning of the command in execution, one entry of the schedule used up. -/
theorem step_of_core {s : State} {op : Instr} {ph : Phase} {i j n : Nat} (hseq : s.seq = .run op ph i j n)
    (hm : nextMover s = .core) : step s = exec op { s with schedule := s.schedule.tail } := by
  simp [step, hm, coreTurn, State.takeTurn, hseq, Seq.running]

/-- While a command runs and the schedule does not give the host a turn that it has a use for, the core moves. -/
theorem nextMover_core_of {s : State} (hrun : s.seq.running = true) (hf : s.status.fault = false)
    (h : s.schedule.head? ≠ some .host ∨ s.script = []) : nextMover s = .core := by
  unfold nextMover
  rw [hrun, hf]
  split
  · contradiction
  · split
    · next hs => simp_all
    · rfl

/-- A step of a busy core that is no reset: the command in execution goes on, or the host does no more than set OVR
and use up its own data (10_state.md R31 (d), (e), (f)). -/
theorem step_busy_cases {s t : State} (hb : s.status.busy = true) (hreset : resetNext s = false)
    (h : step s = .next t) :
    (∃ op ph i j n, nextMover s = .core ∧ s.seq = .run op ph i j n ∧
      exec op { s with schedule := s.schedule.tail } = .next t) ∨
    (nextMover s = .host ∧
      ∃ ovr, (s.status.fault = true → ovr = s.status.ovr) ∧
        t = s.withHostSide ovr t.script s.takeTurn.schedule t.reads) := by
  obtain ⟨hm, -, op, ph, i, j, n, hseq, -⟩ | ⟨hm, a, v, rest, -, -, hw⟩ | ⟨hm, -, -, ht⟩ | ⟨-, -, hr, -⟩ :=
    step_inversion h
  · exact .inl ⟨op, ph, i, j, n, hm, hseq, step_of_core hseq hm ▸ h⟩
  · refine .inr ⟨hm, ?_⟩
    obtain ⟨-, rfl⟩ | ⟨hf, -, rfl⟩ | ⟨-, hnb, -⟩ := hostWrite_cases hw
    · exact ⟨s.status.ovr, fun _ => rfl, rfl⟩
    · exact ⟨true, fun hf' => absurd hf' (by simp_all), rfl⟩
    · exact absurd hb (by simp_all)
  · exact .inr ⟨hm, s.status.ovr, fun _ => rfl, ht⟩
  · exact absurd hr (by simp [hreset])

/-- Settles O5: the host's turn is ruled out, so the step is the core's. -/
theorem stepAdvancesTheRunningCommand : Obligations.StepAdvancesTheRunningCommand := by
  intro s op ph i j n hseq hf h
  exact step_of_core hseq (nextMover_core_of (by rw [hseq]; rfl) hf h)

/-- Settles O37: the frame of every command, and the cases of a busy core's step. -/
theorem noCommandWritesAnInput : Obligations.NoCommandWritesAnInput := by
  refine ⟨fun i s t h => exec_sameInputs h, fun s t hb h hreset => ?_⟩
  obtain ⟨op, _, _, _, _, -, -, hexec⟩ | ⟨-, ovr, -, ht⟩ := step_busy_cases hb hreset h
  · have hsame := exec_sameInputs hexec
    exact hsame
  · rw [ht]
    exact .of_results rfl rfl rfl

/-! ### The writers of the result registers (10_state.md R22, R23, R26) -/

/-- Of the result registers, command `i` changes at most its own, and changes it only where it commits. -/
def ChangesOwnResult (i : Instr) (s t : State) : Prop :=
  (t.regs.dout ≠ s.regs.dout → t.seq = .idle ∧ (i = .enc1 ∨ i = .dec1 ∨ i = .enc2 ∨ i = .dec2)) ∧
  (t.regs.rkey ≠ s.regs.rkey → t.seq = .idle ∧ ∃ sel, i = .ksched sel) ∧
  (t.regs.fk1 ≠ s.regs.fk1 ∨ t.regs.fk2 ≠ s.regs.fk2 → t.seq = .idle ∧ (i = .mitm ∨ i = .brute))

theorem ChangesOwnResult.of_regs_eq {i : Instr} {s t : State} (h : t.regs = s.regs) : ChangesOwnResult i s t := by
  simp [ChangesOwnResult, h]

/-- A commit changes the register that its latched result is for. -/
theorem ChangesOwnResult.finish {i : Instr} (s : State) {l : Latch}
    (hblock : ∀ b, l = .block b → i = .enc1 ∨ i = .dec1 ∨ i = .enc2 ∨ i = .dec2)
    (hround : ∀ rk, l = .roundKey rk → ∃ sel, i = .ksched sel)
    (hpair : ∀ found, l = .keyPair found → i = .mitm ∨ i = .brute) : ChangesOwnResult i s (s.finish l) := by
  cases l with
  | nothing => exact .of_regs_eq rfl
  | block b => exact ⟨fun _ => ⟨rfl, hblock b rfl⟩, fun h => absurd rfl h, fun h => by simp [Latch.intoRegs] at h⟩
  | roundKey rk =>
    exact ⟨fun h => absurd rfl h, fun _ => ⟨rfl, hround rk rfl⟩, fun h => by simp [Latch.intoRegs] at h⟩
  | keyPair found =>
    exact ⟨fun h => by cases found <;> exact absurd rfl h, fun h => by cases found <;> exact absurd rfl h,
      fun _ => ⟨rfl, hpair found rfl⟩⟩

theorem ChangesOwnResult.scanStep {op : Instr} (hop : op = .mitm ∨ op = .brute) (hit : State → Nat → Nat → Bool)
    (i j n : Nat) (s : State) : ChangesOwnResult op s (scanStep op hit i j n s) := by
  obtain ⟨-, h⟩ | ⟨-, -, h⟩ | ⟨-, -, -, h⟩ | ⟨-, -, -, h⟩ := scanStep_cases op hit i j n s <;> rw [h]
  · exact .finish s (by simp) (by simp) (fun _ _ => hop)
  · exact .of_regs_eq rfl
  · exact .of_regs_eq rfl
  · exact .finish s (by simp) (by simp) (fun _ _ => hop)

theorem advanceOf_changesOwnResult (i : Instr) (s : State) : ChangesOwnResult i s (advanceOf i s) := by
  cases i with
  | nop => exact .of_regs_eq rfl
  | clr => exact .of_regs_eq rfl
  | enc1 => exact .finish s (by simp) (by simp) (by simp)
  | dec1 => exact .finish s (by simp) (by simp) (by simp)
  | enc2 => exact .finish s (by simp) (by simp) (by simp)
  | dec2 => exact .finish s (by simp) (by simp) (by simp)
  | ksched sel =>
    simp only [advanceOf]
    split
    · exact .finish s (by simp) (by simp) (by simp)
    · exact .of_regs_eq rfl
  | mitm =>
    simp only [advanceOf, advanceMitm]
    split
    · exact .of_regs_eq rfl
    · simp only [fillForward]; split <;> exact .of_regs_eq rfl
    · simp only [fillBackward]; split <;> exact .of_regs_eq rfl
    · exact .scanStep (.inl rfl) ..
  | brute =>
    simp only [advanceOf, advanceBrute]
    split
    · exact .of_regs_eq rfl
    · exact .scanStep (.inr rfl) ..
  | cbcd =>
    simp only [advanceOf, advanceCbcd]
    split
    · exact .of_regs_eq rfl
    · split
      · split <;> exact .of_regs_eq rfl
      · exact .of_regs_eq rfl

/-- A command that changes a result register is in execution, and the register is its own. -/
theorem exec_changesOwnResult {i : Instr} {s t : State} (h : exec i s = .next t) :
    t.regs = s.regs ∨ (s.inProgress i = true ∧ ChangesOwnResult i s t) := by
  obtain ⟨-, rfl⟩ | ⟨-, -, -, rfl⟩ | ⟨-, -, rfl⟩ | ⟨-, e, -, -, rfl⟩ | ⟨-, -, -, -, -, rfl⟩ |
    ⟨hp, -, -, -, -, rfl⟩ := exec_cases h
  · exact .inl rfl
  · exact .inl rfl
  · exact .inl rfl
  · exact .inl rfl
  · exact .inl (startOf_keeps i s.openEpisode).1
  · exact .inr ⟨hp, advanceOf_changesOwnResult i s⟩

/-- Of the registers that a host write changes, KEY1 alone takes a result register with it (10_state.md R23). -/
theorem Regs.write_results (r : Regs) (reg : Reg) (v : HostWord) :
    (r.write reg v).dout = r.dout ∧ (r.write reg v).fk1 = r.fk1 ∧ (r.write reg v).fk2 = r.fk2 ∧
    ((r.write reg v).rkey = r.rkey ∨ (reg = .key1 ∧ (r.write reg v).rkey = 0)) := by
  cases reg with
  | key1 => exact ⟨rfl, rfl, rfl, .inr ⟨rfl, rfl⟩⟩
  | _ => exact ⟨rfl, rfl, rfl, .inl rfl⟩

/-- A step that is no reset leaves the result registers, is a step of the command in execution, or writes KEY1. -/
theorem step_results_cases {s t : State} (hreset : resetNext s = false) (h : step s = .next t) :
    t.regs = s.regs ∨ (∃ i, s.inProgress i = true ∧ ChangesOwnResult i s t) ∨
    (t.regs.dout = s.regs.dout ∧ t.regs.fk1 = s.regs.fk1 ∧ t.regs.fk2 = s.regs.fk2 ∧
      (t.regs.rkey = s.regs.rkey ∨ (t.regs.rkey = 0 ∧ ∃ v, nextWrite s = some (0x004, v)))) := by
  have command {i : Instr} {u : State} (hu : u.regs = s.regs) (hseq : u.seq = s.seq) (h : exec i u = .next t) :
      t.regs = s.regs ∨ ∃ i, s.inProgress i = true ∧ ChangesOwnResult i s t := by
    have hp : s.inProgress i = u.inProgress i := by simp only [State.inProgress, hseq]
    obtain h | ⟨hi, hown⟩ := exec_changesOwnResult h
    · exact .inl (h.trans hu)
    · exact .inr ⟨i, hp ▸ hi, by simpa only [ChangesOwnResult, hu] using hown⟩
  obtain ⟨-, -, op, _, _, _, _, -, hexec⟩ | ⟨-, a, v, rest, hnw, -, hw⟩ | ⟨-, -, -, ht⟩ | ⟨-, -, hr, -⟩ :=
    step_inversion h
  · exact (command (by rfl) (by rfl) hexec).imp_right .inl
  · obtain ⟨-, rfl⟩ | ⟨-, -, rfl⟩ | ⟨-, -, ⟨-, hi⟩ | ⟨r, -, htarget, rfl⟩ | ⟨k, -, rfl⟩ | ⟨k, -, rfl⟩ | ⟨-, rfl⟩⟩ :=
      hostWrite_cases hw
    · exact .inl rfl
    · exact .inl rfl
    · obtain ⟨i, -, hexec⟩ | ⟨e, -, rfl⟩ := issueWord_cases hi
      · exact (command (by rfl) (by rfl) hexec).imp_right .inl
      · exact .inl rfl
    · obtain ⟨hdout, hfk1, hfk2, hrkey⟩ := s.regs.write_results r v
      refine .inr (.inr ⟨hdout, hfk1, hfk2, hrkey.imp_right fun ⟨hkey, hzero⟩ => ⟨hzero, v, ?_⟩⟩)
      rw [hnw, ← addr_of_target_reg htarget, hkey]
      rfl
    · exact .inl rfl
    · exact .inl rfl
    · exact .inl rfl
  · exact .inl (by rw [ht])
  · exact absurd hr (by simp [hreset])

/-- Settles O45: each of the cases of a step names the registers it can change. -/
theorem resultRegisterWriters : Obligations.ResultRegisterWriters := by
  intro s t h hreset
  obtain hregs | ⟨i, hi, hdout, hrkey, hfk⟩ | ⟨hdout, hfk1, hfk2, hrkey⟩ := step_results_cases hreset h
  · rw [hregs]
    exact ⟨fun h => absurd rfl h, fun h => absurd rfl h, fun h => by simp at h⟩
  · refine ⟨fun h => ?_, fun h => .inl ?_, fun h => ?_⟩
    · obtain ⟨hidle, rfl | rfl | rfl | rfl⟩ := hdout h <;> simp [hidle, hi]
    · obtain ⟨hidle, sel, rfl⟩ := hrkey h
      exact ⟨hidle, sel, hi⟩
    · obtain ⟨hidle, rfl | rfl⟩ := hfk h <;> simp [hidle, hi]
  · exact ⟨fun h => absurd hdout h, fun h => .inr (hrkey.resolve_left h), fun h => by simp [hfk1, hfk2] at h⟩

end Sys2Proof.Machine
end

section
/-! The invariant: it holds after every reset, and every step keeps it (10_state.md R29, R30, R33, R34, R38 to R40;
45_key_recovery.md R152; 46_cbc.md R162). -/

namespace Sys2Proof.Machine

/-! ### The flags -/

/-- The flags after a reset, whatever the self-check answers (10_state.md R40, 70_reset_and_hazards.md R211). -/
theorem FlagsInv.of_reset {s : State} (hseq : s.seq = .idle)
    (hstatus : s.status = { Status.zero with fault := !s.tables.wf })
    (herr : s.errcode = if s.tables.wf then .none else .tableFault) : FlagsInv s := by
  constructor <;> cases hw : s.tables.wf <;> simp [hseq, hstatus, herr, hw, Status.zero, Seq.running]

/-- The flags of a core that is not halted. -/
theorem FlagsInv.of_no_fault {s : State} (hw : s.tables.wf = true) (hf : s.status.fault = false)
    (hbusy : s.status.busy = s.seq.running) (hcode : s.status.err = true ↔ s.errcode ≠ .none)
    (hnofault : s.errcode ≠ .tableFault) (herr : s.status.err = true → s.status.done = true ∧ s.status.found = false)
    (hfound : s.status.found = true → s.status.done = true)
    (hclean : s.status.busy = true →
      s.status.done = false ∧ s.status.found = false ∧ s.status.err = false ∧ s.errcode = .none) : FlagsInv s where
  busyMirrorsSeq := hbusy
  faultIffIllFormed := by rw [hf, hw]; rfl
  halted h := by simp [hf] at h
  errIffCode _ := ⟨hcode, hnofault⟩
  errDone := herr
  foundDone := hfound
  busyClean := hclean

section
variable {s t : State} (h : FlagsInv s)
include h

/-- The flags speak of STATUS, ERRCODE, TABLES and of whether the sequencer runs. -/
theorem FlagsInv.congr (hstatus : t.status = s.status) (herr : t.errcode = s.errcode)
    (hseq : t.seq.running = s.seq.running) (htables : t.tables = s.tables) : FlagsInv t := by
  obtain ⟨hbusy, hfault, hhalted, hcode, hdone, hfound, hclean⟩ := h
  constructor <;> simpa only [hstatus, herr, hseq, htables]

/-- A core that is not halted has a well-formed TABLES. -/
theorem FlagsInv.wf_of_no_fault (hf : s.status.fault = false) : s.tables.wf = true := by
  simpa [hf] using h.faultIffIllFormed

/-- A halted core is not busy (10_state.md R40). -/
theorem FlagsInv.no_fault_of_busy (hb : s.status.busy = true) : s.status.fault = false := by
  cases hf : s.status.fault with
  | false => rfl
  | true =>
    obtain ⟨hstatus, -⟩ := h.halted hf
    rw [hstatus] at hb
    cases hb

/-- OVR is free on a core that is not halted. -/
theorem FlagsInv.withOvr (ovr : Bool) (hovr : s.status.fault = true → ovr = s.status.ovr)
    (hstatus : t.status = { s.status with ovr := ovr }) (herr : t.errcode = s.errcode) (hseq : t.seq = s.seq)
    (htables : t.tables = s.tables) : FlagsInv t := by
  obtain ⟨hbusy, hfault, hhalted, hcode, hdone, hfound, hclean⟩ := h
  constructor
  case halted =>
    intro hf
    rw [hstatus] at hf
    rw [hstatus, herr, hovr hf]
    exact hhalted hf
  all_goals simpa only [hstatus, herr, hseq, htables]

/-- A commit of the running command keeps the flags fitting (10_state.md R34). -/
theorem FlagsInv.finish (hb : s.status.busy = true) (l : Latch) : FlagsInv (s.finish l) := by
  obtain ⟨-, -, herr, hcode⟩ := h.busyClean hb
  have hf := h.no_fault_of_busy hb
  apply FlagsInv.of_no_fault <;> simp [hf, herr, hcode, h.wf_of_no_fault hf, Seq.running]

/-- A rejection on an idle core keeps the flags fitting (60_exceptions.md R184). -/
theorem FlagsInv.reject (hf : s.status.fault = false) (hb : s.status.busy = false) {e : ErrCode} (he : e ≠ .none)
    (he' : e ≠ .tableFault) : FlagsInv (s.openEpisode.raiseError e) := by
  have hr : s.seq.running = false := h.busyMirrorsSeq ▸ hb
  apply FlagsInv.of_no_fault <;> simp [hf, hb, hr, he, he', h.wf_of_no_fault hf]

/-- CLR on an idle core keeps the flags fitting (47_control.md R171). -/
theorem FlagsInv.acknowledge (hf : s.status.fault = false) (hb : s.status.busy = false) :
    FlagsInv s.acknowledge := by
  have hr : s.seq.running = false := h.busyMirrorsSeq ▸ hb
  apply FlagsInv.of_no_fault <;> simp [hf, hb, hr, h.wf_of_no_fault hf]

/-- A command that starts on an idle core keeps the flags fitting (30_encoding.md R70). -/
theorem FlagsInv.start (hf : s.status.fault = false) (hstatus : t.status = s.status.opened.started)
    (herr : t.errcode = .none) (hseq : t.seq.running = true) (htables : t.tables = s.tables) : FlagsInv t := by
  apply FlagsInv.of_no_fault <;> simp [hf, hstatus, herr, hseq, htables, h.wf_of_no_fault hf]

end

/-! ### The memories -/

/-- The canonical form speaks of the memories alone. -/
theorem MemoryInv.congr {s t : State} (h : MemoryInv s) (hmem : ∀ sp, t.mem sp = s.mem sp)
    (hold : t.ptOld = s.ptOld) : MemoryInv t := by
  have hct : t.ctbuf = s.ctbuf := hmem .ctbuf
  have hpt : t.ptbuf = s.ptbuf := hmem .ptbuf
  have hfwd : t.fwd = s.fwd := hmem .fwd
  have hbwd : t.bwd = s.bwd := hmem .bwd
  exact ⟨hct ▸ h.ctbuf, hpt ▸ h.ptbuf, hfwd ▸ h.fwd, hbwd ▸ h.bwd, hold ▸ h.ptOld⟩

/-- A store inside its memory keeps every memory canonical. -/
theorem MemoryInv.storeBlock {s : State} (h : MemoryInv s) {sp : Space} {k : Nat} (b : Block)
    (hk : k < Config.spaceSize sp) : MemoryInv (s.storeBlock sp k b) := by
  obtain ⟨hct, hpt, hfwd, hbwd, hold⟩ := h
  cases sp with
  | ctbuf => exact ⟨Memory.wf_write b hct hk, hpt, hfwd, hbwd, hold⟩
  | ptbuf => exact ⟨hct, Memory.wf_write b hpt hk, hfwd, hbwd, hold⟩
  | fwd => exact ⟨hct, hpt, Memory.wf_write b hfwd hk, hbwd, hold⟩
  | bwd => exact ⟨hct, hpt, hfwd, Memory.wf_write b hbwd hk, hold⟩

/-- A memory whose first `m` blocks are those of `f` has its first `m + 1` so once block `m` is written. -/
theorem Memory.read_write_upTo {mem : Memory} {m : Nat} {f : Nat → Block}
    (h : ∀ k < m, Memory.read mem k = some (f k)) :
    ∀ k < m + 1, Memory.read (Memory.write mem m (f m)) k = some (f k) := by
  intro k hk
  by_cases hkm : k = m
  · rw [hkm, Memory.read_write_same]
  · rw [Memory.read_write_other _ _ hkm, h k (by omega)]

/-! ### The sequencer -/

theorem SequencerInv.of_idle {s : State} (hseq : s.seq = .idle) : SequencerInv s := by
  rw [SequencerInv, hseq]
  trivial

/-- The sequencer's part of the invariant at a place of a command. -/
theorem sequencerInv_run_iff {s : State} {op : Instr} {ph : Phase} {i j n : Nat} (hseq : s.seq = .run op ph i j n) :
    SequencerInv s ↔ placeFits s.regs op ph i j n ∧ progress s op ph i j n := by
  rw [SequencerInv, hseq]

/-- A command stands at a place of its own only if it is one that runs on the sequencer (10_state.md R33). -/
theorem placeFits_runs {r : Regs} {op : Instr} {ph : Phase} {i j n : Nat} (h : placeFits r op ph i j n) :
    op.wf = true ∧ op ≠ .nop ∧ op ≠ .clr := by
  cases op with
  | nop => cases ph <;> exact h.elim
  | clr => cases ph <;> exact h.elim
  | ksched sel => exact ⟨h.1, nofun, nofun⟩
  | _ => exact ⟨rfl, nofun, nofun⟩

/-! ### The searched pairs (45_key_recovery.md R147) -/

theorem nothingBefore_first (s : State) : nothingBefore s 0 0 := by
  intro a b _ _ h
  omega

/-- The next pair in the row. -/
theorem nothingBefore_next {s : State} {i j : Nat} (h : nothingBefore s i j)
    (hmiss : verified s.tables s.regs i j = false) : nothingBefore s i (j + 1) := by
  intro a b ha hb hlex
  by_cases hab : a = i ∧ b = j
  · rw [hab.1, hab.2, hmiss]
  · exact h a b ha hb (by omega)

/-- The next row, once the last pair of a row is done. -/
theorem nothingBefore_nextRow {s : State} {i j : Nat} (h : nothingBefore s i j) (hj : Config.nKeys ≤ j) :
    nothingBefore s (i + 1) 0 := by
  intro a b ha hb hlex
  exact h a b ha hb (by omega)

/-- Once both tables are filled, MITM's test of a pair is membership in the verified set (45_key_recovery.md R145,
R146). -/
theorem mitmHit_eq_verified {s : State} (hw : s.tables.wf = true) (hfwd : forwardFilled s Config.nKeys)
    (hbwd : backwardFilled s Config.nKeys) {i j : Nat} (hi : i < Config.nKeys) (hj : j < Config.nKeys) :
    mitmHit s i j = verified s.tables s.regs i j := by
  have hf : s.blockAt .fwd i = cipherE s.tables (s.regs.p.get .one) (keyOf i) :=
    congrArg (Option.getD · _) (hfwd i hi)
  have hb : s.blockAt .bwd j = cipherD s.tables (s.regs.c.get .one) (keyOf j) :=
    congrArg (Option.getD · _) (hbwd j hj)
  have hmeet : (s.blockAt .fwd i == s.blockAt .bwd j) = pairAgrees s.tables s.regs i j .one := by
    rw [hf, hb, pairAgrees, Bool.eq_iff_iff, beq_iff_eq, beq_iff_eq, cipherE_eq_cipherD_iff hw]
  rw [mitmHit, verified, hmeet]

/-! ### Sequencer steps -/

section
variable {s : State} {op : Instr} {ph : Phase} {i j n : Nat}

theorem advanceMitm_fillF (hseq : s.seq = .run op .fillF i j n) : advanceMitm s = fillForward i j n s := by
  simp only [advanceMitm, hseq]

theorem advanceMitm_fillB (hseq : s.seq = .run op .fillB i j n) : advanceMitm s = fillBackward i j n s := by
  simp only [advanceMitm, hseq]

theorem advanceMitm_scan (hseq : s.seq = .run op .scan i j n) : advanceMitm s = scanStep .mitm mitmHit i j n s := by
  simp only [advanceMitm, hseq]

theorem advanceBrute_run (hseq : s.seq = .run op ph i j n) : advanceBrute s = scanStep .brute bruteHit i j n s := by
  simp only [advanceBrute, hseq]

/-- The three results of a step of CBCD: a block before the last, the last block, an empty stream. -/
theorem advanceCbcd_cases (hseq : s.seq = .run op ph i j n) :
    (n + 1 < s.regs.blockCount ∧ advanceCbcd s = { cbcBlock n s with seq := .run .cbcd .blocks i j (n + 1) }) ∨
    (n + 1 = s.regs.blockCount ∧ advanceCbcd s = (cbcBlock n s).finish .nothing) ∨
    (s.regs.blockCount ≤ n ∧ advanceCbcd s = s.finish .nothing) := by
  simp only [advanceCbcd, hseq]
  split
  · split
    · next hnext => exact .inl ⟨hnext, rfl⟩
    · exact .inr (.inl ⟨by omega, rfl⟩)
  · exact .inr (.inr ⟨by omega, rfl⟩)

end

section
variable {s t : State} {op : Instr} {ph : Phase} {i j n : Nat} (h : Inv s)
include h

theorem Inv.busy_of_run (hseq : s.seq = .run op ph i j n) : s.status.busy = true := by
  rw [h.flags.busyMirrorsSeq, hseq]
  rfl

/-- A command that runs does so under a well-formed TABLES, on a core that is not halted. -/
theorem Inv.no_fault_of_run (hseq : s.seq = .run op ph i j n) : s.status.fault = false ∧ s.tables.wf = true := by
  have hf := h.flags.no_fault_of_busy (h.busy_of_run hseq)
  exact ⟨hf, h.flags.wf_of_no_fault hf⟩

/-- What a host can change of a core that is not halted is outside the invariant. -/
theorem Inv.withHostSide {ovr : Bool} (hovr : s.status.fault = true → ovr = s.status.ovr) (script : List Action)
    (schedule : List Agent) (reads : List HostWord) : Inv (s.withHostSide ovr script schedule reads) :=
  ⟨h.flags.withOvr ovr hovr rfl rfl rfl rfl, h.memories.congr (fun sp => by simp) rfl, h.sequencer⟩

theorem Inv.finish (hb : s.status.busy = true) (l : Latch) : Inv (s.finish l) :=
  ⟨h.flags.finish hb l, h.memories.congr (s.finish_keeps l).2 rfl, .of_idle rfl⟩

/-- A step that leaves the flags and moves the sequencer on from one place to another. -/
theorem Inv.moved (hrun : s.seq.running = true) (hstatus : t.status = s.status) (herr : t.errcode = s.errcode)
    (htables : t.tables = s.tables) (hmem : MemoryInv t) (hseq : t.seq = .run op ph i j n)
    (hplace : placeFits t.regs op ph i j n) (hprogress : progress t op ph i j n) : Inv t :=
  ⟨h.flags.congr hstatus herr (by rw [hseq, hrun]; rfl) htables, hmem,
    (sequencerInv_run_iff hseq).2 ⟨hplace, hprogress⟩⟩

/-- A step of FILL_F stores the next forward value (45_key_recovery.md R143). -/
theorem Inv.of_fillForward (hseq : s.seq = .run .mitm .fillF i j n) : Inv (fillForward i j n s) := by
  obtain ⟨⟨hi, rfl, rfl⟩, hfill⟩ := (sequencerInv_run_iff hseq).1 h.sequencer
  have hrun : s.seq.running = true := by rw [hseq]; rfl
  have hmem := h.memories.storeBlock (sp := .fwd) (cipherE s.tables (s.regs.p.get .one) (keyOf i)) hi
  have hfill' := Memory.read_write_upTo hfill
  simp only [fillForward]
  split
  · next hnext => exact h.moved hrun rfl rfl rfl (hmem.congr (fun _ => rfl) rfl) rfl ⟨hnext, rfl, rfl⟩ hfill'
  · next hlast =>
    have hall : i + 1 = Config.nKeys := by omega
    exact h.moved hrun rfl rfl rfl (hmem.congr (fun _ => rfl) rfl) rfl ⟨hall, by decide, rfl⟩
      ⟨hall ▸ hfill', fun k hk => absurd hk (by omega)⟩

/-- A step of FILL_B stores the next backward value (45_key_recovery.md R144). -/
theorem Inv.of_fillBackward (hseq : s.seq = .run .mitm .fillB i j n) : Inv (fillBackward i j n s) := by
  obtain ⟨⟨hi, hj, rfl⟩, hfwd, hfill⟩ := (sequencerInv_run_iff hseq).1 h.sequencer
  have hrun : s.seq.running = true := by rw [hseq]; rfl
  have hmem := h.memories.storeBlock (sp := .bwd) (cipherD s.tables (s.regs.c.get .one) (keyOf j)) hj
  have hfill' := Memory.read_write_upTo hfill
  simp only [fillBackward]
  split
  · next hnext =>
    exact h.moved hrun rfl rfl rfl (hmem.congr (fun _ => rfl) rfl) rfl ⟨hi, hnext, rfl⟩ ⟨hfwd, hfill'⟩
  · next hlast =>
    have hall : j + 1 = Config.nKeys := by omega
    exact h.moved hrun rfl rfl rfl (hmem.congr (fun _ => rfl) rfl) rfl ⟨by decide, by decide, rfl⟩
      ⟨hfwd, hall ▸ hfill', nothingBefore_first _⟩

/-- A step of SCAN, whichever search is at it, where its test of a pair is membership in the verified set. -/
theorem Inv.of_scanStep (hop : op = .mitm ∨ op = .brute) {hit : State → Nat → Nat → Bool}
    (hseq : s.seq = .run op .scan i j n) (hhit : hit s i j = verified s.tables s.regs i j)
    (hnone : nothingBefore s i j) (hprogress : ∀ i' j', nothingBefore s i' j' → progress s op .scan i' j' n) :
    Inv (scanStep op hit i j n s) := by
  have hb := h.busy_of_run hseq
  have hrun : s.seq.running = true := by rw [hseq]; rfl
  have hbounds (i' j' : Nat) :
      placeFits s.regs op .scan i' j' n ↔ i' < Config.nKeys ∧ j' < Config.nKeys ∧ n = 0 := by
    obtain rfl | rfl := hop <;> rfl
  have moved {i' j' : Nat} (hi : i' < Config.nKeys) (hj : j' < Config.nKeys) (hnone' : nothingBefore s i' j') :
      Inv (s.moveTo op .scan i' j' n) := by
    obtain ⟨-, -, hn⟩ := (hbounds i j).1 ((sequencerInv_run_iff hseq).1 h.sequencer).1
    exact h.moved hrun rfl rfl rfl (h.memories.congr (fun _ => rfl) rfl) rfl ((hbounds i' j').2 ⟨hi, hj, hn⟩)
      (hprogress i' j' hnone')
  obtain ⟨hi, hj, -⟩ := (hbounds i j).1 ((sequencerInv_run_iff hseq).1 h.sequencer).1
  obtain ⟨-, ht⟩ | ⟨hmiss, hj', ht⟩ | ⟨hmiss, hj', hi', ht⟩ | ⟨-, -, -, ht⟩ := scanStep_cases op hit i j n s <;>
    rw [ht]
  · exact h.finish hb _
  · exact moved hi hj' (nothingBefore_next hnone (hhit ▸ hmiss))
  · exact moved hi' (by decide) (nothingBefore_nextRow (nothingBefore_next hnone (hhit ▸ hmiss)) hj')
  · exact h.finish hb _

theorem Inv.of_advanceMitm (hseq : s.seq = .run .mitm ph i j n) : Inv (advanceMitm s) := by
  obtain ⟨hplace, hprogress⟩ := (sequencerInv_run_iff hseq).1 h.sequencer
  cases ph with
  | fillF => exact advanceMitm_fillF hseq ▸ h.of_fillForward hseq
  | fillB => exact advanceMitm_fillB hseq ▸ h.of_fillBackward hseq
  | scan =>
    obtain ⟨hi, hj, -⟩ := hplace
    obtain ⟨hfwd, hbwd, hnone⟩ := hprogress
    have hw := (h.no_fault_of_run hseq).2
    rw [advanceMitm_scan hseq]
    exact h.of_scanStep (.inl rfl) hseq (mitmHit_eq_verified hw hfwd hbwd hi hj) hnone
      (fun _ _ hnone' => ⟨hfwd, hbwd, hnone'⟩)
  | exec => exact hplace.elim
  | blocks => exact hplace.elim

theorem Inv.of_advanceBrute (hseq : s.seq = .run .brute ph i j n) : Inv (advanceBrute s) := by
  obtain ⟨hplace, hprogress⟩ := (sequencerInv_run_iff hseq).1 h.sequencer
  rw [advanceBrute_run hseq]
  cases ph with
  | scan => exact h.of_scanStep (.inr rfl) hseq rfl hprogress (fun _ _ hnone' => hnone')
  | _ => exact hplace.elim

/-- The next block of the stream, before the sequencer moves on (46_cbc.md R162). -/
theorem Inv.cbcBlock_progress (hseq : s.seq = .run .cbcd .blocks i j n) (hn : n < s.regs.blockCount) :
    MemoryInv (cbcBlock n s) ∧ progress (cbcBlock n s) .cbcd .blocks i j (n + 1) := by
  obtain ⟨⟨-, -, -, hcount, -⟩, hchain, hdone, hrest⟩ := (sequencerInv_run_iff hseq).1 h.sequencer
  have hpt : (cbcBlock n s).ptbuf = Memory.write s.ptbuf n (plainBlock s n) := by
    rw [plainBlock, ← hchain]
    rfl
  have hmem := h.memories.storeBlock (sp := .ptbuf)
    (cipherD2 s.tables (s.blockAt .ctbuf n) s.regs.key1 s.regs.key2 ^^^ s.chain) (lt_of_lt_of_le hn hcount)
  refine ⟨hmem.congr (fun sp => by cases sp <;> rfl) rfl, (if_neg n.succ_ne_zero).symm, ?_, fun k hk => ?_⟩
  · rw [hpt]
    exact Memory.read_write_upTo hdone
  · rw [hpt, Memory.read_write_other _ _ (by omega)]
    exact hrest k (by omega)

theorem Inv.of_advanceCbcd (hseq : s.seq = .run .cbcd ph i j n) : Inv (advanceCbcd s) := by
  obtain ⟨hplace, -⟩ := (sequencerInv_run_iff hseq).1 h.sequencer
  have hb := h.busy_of_run hseq
  have hrun : s.seq.running = true := by rw [hseq]; rfl
  cases ph with
  | blocks =>
    obtain ⟨hi, hj, hlen, hcount, -⟩ := hplace
    obtain ⟨hnext, ht⟩ | ⟨hlast, ht⟩ | ⟨-, ht⟩ := advanceCbcd_cases hseq <;> rw [ht]
    · obtain ⟨hmem, hprogress⟩ := h.cbcBlock_progress hseq (by omega)
      exact h.moved hrun rfl rfl rfl (hmem.congr (fun _ => rfl) rfl) rfl ⟨hi, hj, hlen, hcount, .inl hnext⟩
        hprogress
    · obtain ⟨hmem, -⟩ := h.cbcBlock_progress hseq (by omega)
      exact ⟨(h.flags.congr (t := cbcBlock n s) rfl rfl rfl rfl).finish hb .nothing,
        hmem.congr (State.finish_keeps _ _).2 rfl, .of_idle rfl⟩
    · exact h.finish hb .nothing
  | _ => exact hplace.elim

/-- A sequencer step of the command in execution keeps the invariant (10_state.md R34). -/
theorem Inv.of_advanceOf (hseq : s.seq = .run op ph i j n) : Inv (advanceOf op s) := by
  obtain ⟨hplace, -⟩ := (sequencerInv_run_iff hseq).1 h.sequencer
  have hb := h.busy_of_run hseq
  cases op with
  | nop => exact absurd rfl (placeFits_runs hplace).2.1
  | clr => exact absurd rfl (placeFits_runs hplace).2.2
  | enc1 => exact h.finish hb _
  | dec1 => exact h.finish hb _
  | enc2 => exact h.finish hb _
  | dec2 => exact h.finish hb _
  | ksched sel =>
    simp only [advanceOf]
    split
    · exact h.finish hb _
    · exact h
  | mitm => exact h.of_advanceMitm hseq
  | brute => exact h.of_advanceBrute hseq
  | cbcd => exact h.of_advanceCbcd hseq

end

/-! ### Commands issued to an idle core -/

/-- A length that passes CBCD's check is a whole number of blocks that fit the buffers (46_cbc.md R161). -/
theorem lengthCheck_none {s : State} (h : lengthCheck s = .none) :
    s.regs.ctlen.toNat % 8 = 0 ∧ s.regs.blockCount ≤ Config.cbcBufBlocks := by
  unfold lengthCheck at h
  split at h
  · cases h
  · split at h
    · cases h
    · unfold Regs.blockCount
      omega

section
variable {s t : State} (h : Inv s) (hf : s.status.fault = false)
include h hf

/-- A rejected command keeps the invariant (60_exceptions.md R184). -/
theorem Inv.reject (hb : s.status.busy = false) {e : ErrCode} (he : e ≠ .none) (he' : e ≠ .tableFault) :
    Inv (s.openEpisode.raiseError e) :=
  ⟨h.flags.reject hf hb he he', h.memories.congr (fun sp => by cases sp <;> rfl) rfl, h.sequencer⟩

theorem Inv.acknowledge (hb : s.status.busy = false) : Inv s.acknowledge :=
  ⟨h.flags.acknowledge hf hb, h.memories.congr (fun sp => by cases sp <;> rfl) rfl, h.sequencer⟩

/-- A command that passes its check starts at the first place of its first phase (30_encoding.md R70). -/
theorem Inv.start {i : Instr} (hw : i.wf = true) (hn : i ≠ .nop) (hc : i ≠ .clr)
    (hlen : i = .cbcd → lengthCheck s = .none) : Inv (startOf i s.openEpisode) := by
  have hmem : MemoryInv s.openEpisode := h.memories.congr (fun sp => by cases sp <;> rfl) rfl
  have started {t : State} {op : Instr} {ph : Phase} (hstatus : t.status = s.status.opened.started)
      (herr : t.errcode = .none) (htables : t.tables = s.tables) (hmem : MemoryInv t) (hseq : t.seq = .run op ph 0 0 0)
      (hplace : placeFits t.regs op ph 0 0 0) (hprogress : progress t op ph 0 0 0) : Inv t :=
    ⟨h.flags.start hf hstatus herr (by rw [hseq]; rfl) htables, hmem,
      (sequencerInv_run_iff hseq).2 ⟨hplace, hprogress⟩⟩
  have startRun {op : Instr} {ph : Phase} (hplace : placeFits s.regs op ph 0 0 0)
      (hprogress : progress s op ph 0 0 0) : Inv (s.openEpisode.startRun op ph) :=
    started rfl rfl rfl (hmem.congr (fun sp => by cases sp <;> rfl) rfl) rfl hplace hprogress
  cases i with
  | nop => exact absurd rfl hn
  | clr => exact absurd rfl hc
  | enc1 => exact startRun ⟨rfl, rfl, rfl, rfl⟩ trivial
  | dec1 => exact startRun ⟨rfl, rfl, rfl, rfl⟩ trivial
  | enc2 => exact startRun ⟨rfl, rfl, rfl, rfl⟩ trivial
  | dec2 => exact startRun ⟨rfl, rfl, rfl, rfl⟩ trivial
  | ksched sel => exact startRun ⟨hw, rfl, rfl, rfl, rfl⟩ trivial
  | mitm => exact startRun ⟨by decide, rfl, rfl⟩ (fun k hk => absurd hk k.not_lt_zero)
  | brute => exact startRun ⟨by decide, by decide, rfl⟩ (nothingBefore_first s)
  | cbcd =>
    obtain ⟨hwhole, hcount⟩ := lengthCheck_none (hlen rfl)
    obtain ⟨hct, hpt, hfwd, hbwd, -⟩ := h.memories
    exact started rfl rfl rfl ⟨hct, hpt, hfwd, hbwd, hpt⟩ rfl
      ⟨rfl, rfl, hwhole, hcount, .inr rfl⟩ ⟨rfl, fun k hk => absurd hk k.not_lt_zero, fun k _ => rfl⟩

end

/-! ### Every step -/

section
variable {s t : State} (h : Inv s)
include h

theorem Inv.idle_of_not_busy (hb : s.status.busy = false) : s.seq = .idle := by
  have hrun : s.seq.running = false := h.flags.busyMirrorsSeq ▸ hb
  cases hs : s.seq with
  | idle => rfl
  | run op ph i j n => rw [hs] at hrun; cases hrun

/-- A command keeps the invariant, issued or in execution. -/
theorem Inv.of_exec {i : Instr} (hexec : exec i s = .next t) : Inv t := by
  obtain ⟨-, rfl⟩ | ⟨hf, -, -, rfl⟩ | ⟨⟨hf, hb⟩, -, rfl⟩ | ⟨⟨hf, hb⟩, e, he, he', rfl⟩ |
    ⟨⟨hf, hb⟩, hw, hn, hc, hlen, rfl⟩ | ⟨hp, -, -, -, -, rfl⟩ := exec_cases hexec
  · exact h
  · exact h.withHostSide (fun hf' => absurd hf' (by simp [hf])) s.script s.schedule s.reads
  · exact h.acknowledge hf hb
  · exact h.reject hf hb he he'
  · exact h.start hf hw hn hc hlen
  · obtain ⟨ph, a, b, n, hseq⟩ := State.inProgress_cases hp
    exact h.of_advanceOf hseq

/-- A host write keeps the invariant, wherever it goes. -/
theorem Inv.of_hostWrite {a : HostAddr} {v : HostWord} (hw : hostWrite a v s = .next t) : Inv t := by
  obtain ⟨-, rfl⟩ | ⟨hf, -, rfl⟩ | ⟨hf, hb, hacts⟩ := hostWrite_cases hw
  · exact h
  · exact h.withHostSide (fun hf' => absurd hf' (by simp [hf])) s.script s.schedule s.reads
  · have hidle := h.idle_of_not_busy hb
    obtain ⟨-, hissue⟩ | ⟨r, -, -, rfl⟩ | ⟨k, hk, rfl⟩ | ⟨k, -, rfl⟩ | ⟨-, rfl⟩ := hacts
    · obtain ⟨i, -, hexec⟩ | ⟨e, -, rfl⟩ := issueWord_cases hissue
      · exact h.of_exec hexec
      · exact h.reject hf hb (by simp) (by simp)
    · exact ⟨h.flags.congr rfl rfl rfl rfl, h.memories.congr (fun sp => by cases sp <;> rfl) rfl, .of_idle hidle⟩
    · exact ⟨h.flags.congr rfl rfl rfl rfl, h.memories.storeBlock (sp := .ctbuf) _ (target_ctbuf_lt hk),
        .of_idle hidle⟩
    · exact h
    · exact h

/-- The reset event keeps the invariant: what PTBUF keeps is part of what it held (70_reset_and_hazards.md R210). -/
theorem Inv.applyReset : Inv s.applyReset := by
  obtain ⟨htables, -, hseq, hstatus, herr, hct, hpt, hfwd, hbwd, hold, -⟩ := s.applyReset_fields
  refine ⟨.of_reset hseq (by rw [htables, hstatus]) (by rw [htables, herr]), ?_, .of_idle hseq⟩
  refine ⟨by rw [hct]; rfl, ?_, by rw [hfwd]; rfl, by rw [hbwd]; rfl, by rw [hold]; rfl⟩
  rw [hpt, State.ptbufAfterReset]
  split
  · exact Memory.wf_filter _ h.memories.ptbuf
  · rfl

/-- The invariant says nothing of the host's own data. -/
theorem Inv.withHostData (script : List Action) (schedule : List Agent) (reads : List HostWord) :
    Inv { s with script := script, schedule := schedule, reads := reads } :=
  h.withHostSide (fun _ => rfl) script schedule reads

/-- A step from a state of the invariant leads to one. -/
theorem Inv.of_step (hstep : step s = .next t) : Inv t := by
  obtain ⟨-, -, op, _, _, _, _, -, hexec⟩ | ⟨-, a, v, rest, -, -, hw⟩ | ⟨-, -, -, ht⟩ | ⟨-, -, -, rest, -, rfl⟩ :=
    step_inversion hstep
  · exact (h.withHostData s.script s.takeTurn.schedule s.reads).of_exec hexec
  · exact (h.withHostData rest s.takeTurn.schedule s.reads).of_hostWrite hw
  · exact ht ▸ h.withHostData t.script s.takeTurn.schedule t.reads
  · have hafter := (h.withHostData s.script s.takeTurn.schedule s.reads).applyReset
    exact hafter.withHostData rest s.takeTurn.schedule s.reads

end

/-! ### No step stops -/

theorem issueWord_total (c : CmdWord) {s : State} (hw : s.tables.wf = true) : ∃ t, issueWord c s = .next t := by
  unfold issueWord
  split
  · exact exec_total _ hw
  · exact ⟨_, rfl⟩

theorem hostWrite_total (a : HostAddr) (v : HostWord) {s : State} (hw : s.status.fault = false → s.tables.wf = true) :
    ∃ t, hostWrite a v s = .next t := by
  unfold hostWrite State.gated
  split
  · exact ⟨_, rfl⟩
  · next hf =>
    split
    · exact ⟨_, rfl⟩
    · split
      · exact issueWord_total _ (hw (by simpa using hf))
      all_goals exact ⟨_, rfl⟩

theorem hostTurn_total {s : State} (hw : s.status.fault = false → s.tables.wf = true) :
    ∃ t, hostTurn s = .next t := by
  unfold hostTurn
  split
  next => exact ⟨_, rfl⟩
  next a v rest _ => exact hostWrite_total a v hw
  next => exact ⟨_, rfl⟩
  next a rest _ =>
    split
    · exact ⟨_, rfl⟩
    · exact hostWrite_total a _ hw
  next => exact ⟨_, rfl⟩
  next => exact ⟨_, rfl⟩

theorem coreTurn_total {s : State} (hw : s.tables.wf = true) : ∃ t, coreTurn s = .next t := by
  unfold coreTurn
  split
  · exact ⟨_, rfl⟩
  · exact exec_total _ hw

/-- A step stops at most under a TABLES that the self-check would have found ill-formed (60_exceptions.md R186,
R187). -/
theorem step_total {s : State} (hw : s.status.fault = false → s.tables.wf = true) : ∃ t, step s = .next t := by
  obtain ⟨-, h⟩ | ⟨-, -, hf, h⟩ := step_cases s <;> rw [h]
  · exact hostTurn_total (by simpa using hw)
  · exact coreTurn_total (by simpa using hw hf)

/-- Settles O53: no step stops, and each kind of step keeps the flags, the memories and the sequencer's place. -/
theorem stepKeepsInvariant : Obligations.StepKeepsInvariant := by
  intro s h
  obtain ⟨t, ht⟩ := step_total h.flags.wf_of_no_fault
  exact ⟨t, ht, h.of_step ht⟩

/-! ### After reset -/

/-- The invariant holds after a reset under every TABLES (10_state.md R40). -/
theorem Inv.resetWith (t : Tables) : Inv (State.resetWith t) := by
  refine ⟨?_, ?_, ?_⟩
  · apply FlagsInv.of_reset <;> cases hw : t.wf <;>
      simp [State.resetWith, hw, State.cleared, State.raiseTableFault, Status.zero]
  · cases hw : t.wf <;> (simp only [State.resetWith, hw]; exact ⟨rfl, rfl, rfl, rfl, rfl⟩)
  · cases hw : t.wf <;> (simp only [State.resetWith, hw]; exact .of_idle rfl)

/-- Settles O52: STD is one of the TABLES. -/
theorem invariantHoldsAtReset : Obligations.InvariantHoldsAtReset :=
  ⟨Inv.resetWith, Inv.resetWith stdTables⟩

end Sys2Proof.Machine
end

section
/-! A running command comes to its end whatever the host does short of a reset, and its results do not depend on the
host (10_state.md R37; 60_exceptions.md R189; 70_reset_and_hazards.md R218, R219). -/

namespace Sys2Proof.Machine

/-! ### The script of a step -/

theorem hostWrite_script {a : HostAddr} {v : HostWord} {s t : State} (h : hostWrite a v s = .next t) :
    t.script = s.script := by
  obtain ⟨-, rfl⟩ | ⟨-, -, rfl⟩ | ⟨-, -, ⟨-, hi⟩ | ⟨r, -, -, rfl⟩ | ⟨k, -, rfl⟩ | ⟨k, -, rfl⟩ | ⟨-, rfl⟩⟩ :=
    hostWrite_cases h
  case inr.inr.inl =>
    obtain ⟨i, -, hexec⟩ | ⟨e, -, rfl⟩ := issueWord_cases hi
    · exact (exec_sameSurroundings hexec).2.1
    · rfl
  all_goals rfl

/-- The host does its actions in order, and none but its own (20_memory.md R59 (a)). -/
theorem hostTurn_script_suffix {s t : State} (h : hostTurn s = .next t) : t.script <:+ s.script := by
  unfold hostTurn at h
  split at h
  next hs => cases h; exact List.suffix_rfl
  next a v rest hs => rw [hs, hostWrite_script h]; exact List.suffix_cons ..
  next a rest hs => cases h; rw [hs]; exact List.suffix_cons ..
  next a rest hs =>
    split at h
    · cases h; rw [hs]; exact List.suffix_cons ..
    · rw [hs, hostWrite_script h]; exact List.suffix_cons ..
  next rest hs =>
    cases h
    rw [hs, State.withScript_script]
    split
    · exact List.suffix_rfl
    · exact List.suffix_cons ..
  next rest hs => cases h; rw [hs]; exact List.suffix_cons ..

/-! ### The core without a host -/

/-- The core of `s` with no host beside it. -/
def State.alone (s : State) : State := s.withHostSide false [] [] []

/-- The next sequencer step of the command in execution, if there is one. -/
def coreStep (s : State) : State :=
  match s.seq with
  | .idle => s
  | .run op _ _ _ _ => advanceOf op s

theorem coreStep_run {s : State} {op : Instr} {ph : Phase} {i j n : Nat} (hseq : s.seq = .run op ph i j n) :
    coreStep s = advanceOf op s := by simp only [coreStep, hseq]

theorem coreStep_idle {s : State} (hseq : s.seq = .idle) : coreStep s = s := by simp only [coreStep, hseq]

theorem coreStep_alone (s : State) : coreStep s.alone = (coreStep s).alone := by
  cases hseq : s.seq with
  | idle => rw [coreStep_idle hseq, coreStep_idle (s := s.alone) hseq]
  | run op ph i j n =>
    rw [coreStep_run hseq, coreStep_run (s := s.alone) hseq]
    exact advanceOf_withHostSide s false [] [] [] op

/-- However long the core goes on once it is idle, it ends in one state. -/
theorem coreStep_iterate_idle_unique {s : State} {c c' : Nat} (h : (coreStep^[c] s).seq = .idle)
    (h' : (coreStep^[c'] s).seq = .idle) : coreStep^[c] s = coreStep^[c'] s := by
  have later {a b : Nat} (hab : a ≤ b) (ha : (coreStep^[a] s).seq = .idle) : coreStep^[b] s = coreStep^[a] s := by
    obtain ⟨d, rfl⟩ := Nat.exists_eq_add_of_le' hab
    rw [Function.iterate_add_apply]
    exact Function.IsFixedPt.iterate (coreStep_idle ha) d
  obtain hle | hle := Nat.le_total c c'
  · exact (later hle h).symm
  · exact later hle h'

/-- Cores that agree when alone have the same results. -/
theorem SameResults.of_alone {s t : State} (h : t.alone = s.alone) : SameResults s t := by
  have field {α : Type} (f : State → α) : f t.alone = f s.alone := congrArg f h
  refine ⟨field (·.regs), field (·.status.done), field (·.status.found), field (·.status.err), field (·.errcode),
    fun sp => ?_⟩
  simpa [State.alone] using field (·.mem sp)

/-! ### How long an episode can last (45_key_recovery.md R152, 46_cbc.md R162) -/

/-- The sequencer steps that a command takes at most from a place of the sequencer on, the committing one counted. -/
def Seq.stepsLeft (blocks : Nat) : Seq → Nat
  | .idle => 0
  | .run _ .exec _ _ _ => 1
  | .run _ .fillF i _ _ => (Config.nKeys - i) + Config.nKeys + Config.nKeys * Config.nKeys
  | .run _ .fillB _ j _ => (Config.nKeys - j) + Config.nKeys * Config.nKeys
  | .run _ .scan i j _ => (Config.nKeys - i) * Config.nKeys - j
  | .run _ .blocks _ _ n => blocks + 1 - n

/-- The sequencer steps that the command in execution still takes at most. -/
def State.stepsLeft (s : State) : Nat := s.seq.stepsLeft s.regs.blockCount

/-- The turns that an episode still takes at most: the core's steps, and the turns that the schedule gives the host. -/
def State.turnsLeft (s : State) : Nat := s.schedule.count .host + s.stepsLeft

theorem placeFits_scan {r : Regs} {op : Instr} {i j n : Nat} (h : placeFits r op .scan i j n) :
    i < Config.nKeys ∧ j < Config.nKeys := by
  cases op <;> simp_all [placeFits]

theorem placeFits_blocks {r : Regs} {op : Instr} {i j n : Nat} (h : placeFits r op .blocks i j n) :
    n ≤ r.blockCount := by
  cases op with
  | cbcd =>
    obtain ⟨-, -, -, -, hn⟩ := h
    omega
  | _ => simp [placeFits] at h

section
variable {s : State} {op : Instr} {ph : Phase} {i j n : Nat}

theorem State.stepsLeft_run (hseq : s.seq = .run op ph i j n) :
    s.stepsLeft = Seq.stepsLeft s.regs.blockCount (.run op ph i j n) := by
  rw [State.stepsLeft, hseq]

/-- The committing step is still to come. -/
theorem Inv.stepsLeft_pos (h : Inv s) (hseq : s.seq = .run op ph i j n) : 0 < s.stepsLeft := by
  obtain ⟨hplace, -⟩ := (sequencerInv_run_iff hseq).1 h.sequencer
  have hkeys := nKeys_eq
  rw [State.stepsLeft_run hseq]
  cases ph with
  | exec => exact Nat.one_pos
  | fillF => simp only [Seq.stepsLeft]; omega
  | fillB => simp only [Seq.stepsLeft, hkeys]; omega
  | scan =>
    obtain ⟨hi, hj⟩ := placeFits_scan hplace
    simp only [Seq.stepsLeft, hkeys] at *
    omega
  | blocks =>
    have hn := placeFits_blocks hplace
    simp only [Seq.stepsLeft]
    omega

/-- A commit ends the episode. -/
theorem Inv.stepsLeft_finish_lt (h : Inv s) (hseq : s.seq = .run op ph i j n) (t : State) (l : Latch) :
    (t.finish l).stepsLeft < s.stepsLeft := h.stepsLeft_pos hseq

theorem Inv.stepsLeft_scanStep_lt (h : Inv s) (hseq : s.seq = .run op .scan i j n) (op' : Instr)
    (hit : State → Nat → Nat → Bool) : (scanStep op' hit i j n s).stepsLeft < s.stepsLeft := by
  obtain ⟨hi, hj⟩ := placeFits_scan ((sequencerInv_run_iff hseq).1 h.sequencer).1
  have hkeys := nKeys_eq
  obtain ⟨-, ht⟩ | ⟨-, hj', ht⟩ | ⟨-, hj', hi', ht⟩ | ⟨-, -, -, ht⟩ := scanStep_cases op' hit i j n s <;> rw [ht]
  · exact h.stepsLeft_finish_lt hseq s _
  · rw [State.stepsLeft_run hseq]
    simp only [State.stepsLeft, State.moveTo_seq, Seq.stepsLeft, hkeys] at *
    omega
  · rw [State.stepsLeft_run hseq]
    simp only [State.stepsLeft, State.moveTo_seq, Seq.stepsLeft, hkeys] at *
    omega
  · exact h.stepsLeft_finish_lt hseq s _

theorem Inv.stepsLeft_advanceMitm_lt (h : Inv s) (hseq : s.seq = .run .mitm ph i j n) :
    (advanceMitm s).stepsLeft < s.stepsLeft := by
  obtain ⟨hplace, -⟩ := (sequencerInv_run_iff hseq).1 h.sequencer
  have hkeys := nKeys_eq
  cases ph with
  | fillF =>
    obtain ⟨hi, -, -⟩ := hplace
    rw [State.stepsLeft_run hseq, advanceMitm_fillF hseq, fillForward]
    split <;> simp only [State.stepsLeft, State.moveTo_seq, Seq.stepsLeft] <;> omega
  | fillB =>
    obtain ⟨-, hj, -⟩ := hplace
    rw [State.stepsLeft_run hseq, advanceMitm_fillB hseq, fillBackward]
    split <;> simp only [State.stepsLeft, State.moveTo_seq, Seq.stepsLeft, hkeys] at * <;> omega
  | scan => exact advanceMitm_scan hseq ▸ h.stepsLeft_scanStep_lt hseq ..
  | exec => exact hplace.elim
  | blocks => exact hplace.elim

theorem Inv.stepsLeft_advanceBrute_lt (h : Inv s) (hseq : s.seq = .run .brute ph i j n) :
    (advanceBrute s).stepsLeft < s.stepsLeft := by
  obtain ⟨hplace, -⟩ := (sequencerInv_run_iff hseq).1 h.sequencer
  cases ph with
  | scan => exact advanceBrute_run hseq ▸ h.stepsLeft_scanStep_lt hseq ..
  | _ => exact hplace.elim

theorem Inv.stepsLeft_advanceCbcd_lt (h : Inv s) (hseq : s.seq = .run .cbcd ph i j n) :
    (advanceCbcd s).stepsLeft < s.stepsLeft := by
  obtain ⟨hplace, -⟩ := (sequencerInv_run_iff hseq).1 h.sequencer
  cases ph with
  | blocks =>
    obtain ⟨hnext, ht⟩ | ⟨-, ht⟩ | ⟨-, ht⟩ := advanceCbcd_cases hseq <;> rw [ht]
    · rw [State.stepsLeft_run hseq]
      show s.regs.blockCount + 1 - (n + 1) < s.regs.blockCount + 1 - n
      omega
    · exact h.stepsLeft_finish_lt hseq _ _
    · exact h.stepsLeft_finish_lt hseq _ _
  | _ => exact hplace.elim

/-- Every sequencer step brings the command nearer to its end. -/
theorem Inv.stepsLeft_advanceOf_lt (h : Inv s) (hseq : s.seq = .run op ph i j n) :
    (advanceOf op s).stepsLeft < s.stepsLeft := by
  obtain ⟨hplace, -⟩ := (sequencerInv_run_iff hseq).1 h.sequencer
  have finish (l : Latch) := h.stepsLeft_finish_lt hseq s l
  cases op with
  | nop => exact absurd rfl (placeFits_runs hplace).2.1
  | clr => exact absurd rfl (placeFits_runs hplace).2.2
  | enc1 => exact finish _
  | dec1 => exact finish _
  | enc2 => exact finish _
  | dec2 => exact finish _
  | ksched sel =>
    obtain ⟨q, hq⟩ := Option.isSome_iff_exists.1 ((Selector.ofField_legal sel).trans hplace.1)
    simp only [advanceOf, hq]
    exact finish _
  | mitm => exact h.stepsLeft_advanceMitm_lt hseq
  | brute => exact h.stepsLeft_advanceBrute_lt hseq
  | cbcd => exact h.stepsLeft_advanceCbcd_lt hseq

end

/-! ### Episodes -/

/-- The core's turn while a command runs: the next sequencer step, beside a host that stands still. -/
theorem Inv.step_core {s : State} {op : Instr} {ph : Phase} {i j n : Nat} (h : Inv s)
    (hseq : s.seq = .run op ph i j n) (hm : nextMover s = .core) :
    step s = .next ((advanceOf op s).withHostSide s.status.ovr s.script s.schedule.tail s.reads) := by
  obtain ⟨hw, hn, hc⟩ := placeFits_runs ((sequencerInv_run_iff hseq).1 h.sequencer).1
  rw [step_of_core hseq hm, ← advanceOf_withHostSide]
  exact exec_advance ((State.inProgress_run hseq).trans (decide_eq_true rfl)) hw hn hc (h.no_fault_of_run hseq).2

/-- A turn that the host gets while a command runs was one of the schedule's. -/
theorem schedule_count_of_host {s : State} (hrun : s.seq.running = true) (hf : s.status.fault = false)
    (hm : nextMover s = .host) : s.schedule.count .host = s.schedule.tail.count .host + 1 := by
  unfold nextMover at hm
  rw [hrun, hf] at hm
  split at hm
  · contradiction
  · split at hm
    · next rest hs => rw [hs, List.tail_cons, List.count_cons_self]
    · cases hm

theorem resetNext_false_of_not_mem {s : State} (h : Action.reset ∉ s.script) : resetNext s = false := by
  have hhead : s.script.head? ≠ some .reset := fun hs => h (List.mem_of_mem_head? hs)
  simp [resetNext, hhead]

/-- The host's turn while a command runs, short of a reset: the core stands still. -/
theorem Inv.step_host {s : State} (h : Inv s) (hrun : s.seq.running = true) (hreset : resetNext s = false)
    (hm : nextMover s = .host) : ∃ ovr script reads, script <:+ s.script ∧
      step s = .next (s.withHostSide ovr script s.schedule.tail reads) := by
  obtain ⟨u, hu⟩ := step_total h.flags.wf_of_no_fault
  have hsuffix : u.script <:+ s.script := by
    rw [step, hm] at hu
    simpa using hostTurn_script_suffix hu
  have hturn : s.takeTurn.schedule = s.schedule.tail := by simp [State.takeTurn, hrun]
  obtain ⟨_, _, _, _, _, hm', -⟩ | ⟨-, ovr, -, heq⟩ :=
    step_busy_cases (h.flags.busyMirrorsSeq.trans hrun) hreset hu
  · rw [hm] at hm'
    cases hm'
  · exact ⟨ovr, u.script, u.reads, hsuffix, by rw [hu, ← hturn, ← heq]⟩

/-- A step of a running command without a reset: a turn fewer is left, and the core has taken one sequencer step or
none, whatever the host did. -/
theorem Inv.running_step {s : State} (h : Inv s) (hrun : s.seq.running = true) (hreset : Action.reset ∉ s.script) :
    ∃ u c, step s = .next u ∧ Action.reset ∉ u.script ∧ u.turnsLeft < s.turnsLeft ∧
      u.alone = coreStep^[c] s.alone := by
  cases hs : s.seq with
  | idle => rw [hs] at hrun; cases hrun
  | run op ph i j n =>
    cases hm : nextMover s with
    | core =>
      have hleft := h.stepsLeft_advanceOf_lt hs
      have hcount := s.schedule.tail_sublist.count_le Agent.host
      refine ⟨_, 1, h.step_core hs hm, hreset, Nat.add_lt_add_of_le_of_lt hcount hleft, ?_⟩
      rw [Function.iterate_one, coreStep_alone, coreStep_run hs]
      rfl
    | host =>
      obtain ⟨ovr, script, reads, hsuffix, hu⟩ := h.step_host hrun (resetNext_false_of_not_mem hreset) hm
      have hcount := schedule_count_of_host hrun (h.no_fault_of_run hs).1 hm
      refine ⟨_, 0, hu, fun hmem => hreset (hsuffix.subset hmem), ?_, rfl⟩
      exact Nat.add_lt_add_right (hcount ▸ Nat.lt_succ_self _) s.stepsLeft

theorem runs_succ {s t : State} (h : step s = .next t) (k : Nat) : runs (k + 1) s = runs k t := by
  have hcore : Sys2Proof.core.step s = .next t := h
  have hrun := Host.Core.run.eq_2 Sys2Proof.core s k
  rw [hcore] at hrun
  exact hrun

/-- A running command ends, within the turns left, in the state the core alone comes to beside the host's data. -/
theorem Inv.episode_ends {s : State} (h : Inv s) (hrun : s.seq.running = true) (hreset : Action.reset ∉ s.script) :
    ∃ k t c, k ≤ s.turnsLeft ∧ runs k s = .next t ∧ t.seq = .idle ∧
      (∀ m < k, ∀ u, runs m s = .next u → u.seq.running = true) ∧ t.alone = coreStep^[c] s.alone := by
  induction hN : s.turnsLeft using Nat.strong_induction_on generalizing s with
  | _ N ih =>
    obtain ⟨u, c, hu, hreset', hlt, halone⟩ := h.running_step hrun hreset
    have now {m : Nat} {v : State} (hm : m = 0) (hv : runs m s = .next v) : v.seq.running = true := by
      subst hm
      cases hv
      exact hrun
    cases hseq : u.seq with
    | idle =>
      exact ⟨1, u, c, by omega, runs_succ hu 0, hseq, fun m hm v hv => now (by omega) hv, halone⟩
    | run op ph i j n =>
      obtain ⟨k, t, c', hk, hrun', hidle, hearlier, halone'⟩ :=
        ih u.turnsLeft (hN ▸ hlt) (h.of_step hu) (by rw [hseq]; rfl) hreset' rfl
      refine ⟨k + 1, t, c' + c, by omega, runs_succ hu k ▸ hrun', hidle, fun m hm v hv => ?_, ?_⟩
      · cases m with
        | zero => exact now rfl hv
        | succ m => exact hearlier m (by omega) v (runs_succ hu m ▸ hv)
      · rw [halone', halone, Function.iterate_add_apply]

/-- Settles O59: beside any host and beside none, the core comes to the one idle state it can come to. -/
theorem hostTrafficCannotDisturb : Obligations.HostTrafficCannotDisturb := by
  intro s h hrun hreset
  obtain ⟨k, t, c, -, hk, hidle, hearlier, halone⟩ := h.episode_ends hrun hreset
  obtain ⟨k', t', c', -, hk', hidle', -, halone'⟩ :=
    (h.withHostData [] [] s.reads).episode_ends hrun List.not_mem_nil
  refine ⟨k, k', t, t', hk, hk', hidle, hidle', hearlier, .of_alone ?_⟩
  rw [halone, halone']
  exact coreStep_iterate_idle_unique (halone ▸ hidle) (halone' ▸ hidle')

end Sys2Proof.Machine
end

section
/-! The two buffers behind the host port: CTBUF as a memory that the host reads and writes, and PTBUF as one that it
reads beside a running CBCD (20_memory.md R51, R59). -/

namespace Sys2Proof.Machine

/-! ### Accesses at a buffer's address -/

theorem hostRead_ctbuf (s : State) {k : Nat} (hk : k < 256) :
    hostRead (BitVec.ofNat 12 (0x400 + k)) s = (s.blockAt .ctbuf k).setWidth 16 := by
  simp only [hostRead, target_ctbuf hk]

theorem hostRead_ptbuf (s : State) {k : Nat} (hk : k < 256) :
    hostRead (BitVec.ofNat 12 (0x800 + k)) s = (s.ptbufSeen k).setWidth 16 := by
  simp only [hostRead, target_ptbuf hk]

/-- A write that has passed the gate stores the block (10_state.md R31 (a)). -/
theorem hostWrite_ctbuf {s : State} {k : Nat} (v : HostWord) (hk : k < 256) (hb : s.status.busy = false)
    (hf : s.status.fault = false) :
    hostWrite (BitVec.ofNat 12 (0x400 + k)) v s = .next (s.storeBlock .ctbuf k (v.setWidth 8)) := by
  rw [hostWrite, State.gated_ready _ hf hb]
  simp only [target_ctbuf hk]

/-- No other address than its own leads to a block of CTBUF. -/
theorem addr_of_target_ctbuf {a : HostAddr} {k : Nat} (h : target a = .ctbuf k) : a = BitVec.ofNat 12 (0x400 + k) := by
  obtain ⟨hlo, hhi⟩ := range_of_target_ctbuf h
  obtain ⟨m, hm⟩ := Nat.exists_eq_add_of_le hlo
  have ha : a = BitVec.ofNat 12 (0x400 + m) := by rw [← hm, BitVec.ofNat_toNat, BitVec.setWidth_eq]
  have hmk : Target.ctbuf m = .ctbuf k := by rw [← target_ctbuf (k := m) (by omega), ← ha, h]
  injection hmk with hmk
  rw [ha, hmk]

/-! ### PTBUF as the host sees it -/

/-- A block that the running CBCD writes is seen new or old, whichever the free choice picks (log 6). -/
theorem State.ptbufSeen_of_cbcWindow {s : State} {k : Nat} (h : s.cbcWindow k = true) :
    s.ptbufSeen k = plainBlock s k ∨
      s.ptbufSeen k = (Memory.read s.ptOld k).getD (Config.unwrittenBlock s.resets .ptbuf k) := by
  rw [State.ptbufSeen, if_pos h]
  split
  · exact .inl rfl
  · exact .inr rfl

/-- Every other block of PTBUF is seen as it stands. -/
theorem State.ptbufSeen_of_not_cbcWindow {s : State} {k : Nat} (h : s.cbcWindow k = false) :
    s.ptbufSeen k = s.blockAt .ptbuf k := by
  simp only [State.ptbufSeen, h, Bool.false_eq_true, if_false]

theorem State.cbcWindow_eq_true_iff {s : State} {k : Nat} :
    s.cbcWindow k = true ↔ s.inProgress .cbcd = true ∧ k < s.regs.ctlen.toNat / 8 := by
  rw [State.cbcWindow, Bool.and_eq_true, decide_eq_true_eq, Regs.blockCount]

theorem State.cbcWindow_eq_false_iff {s : State} {k : Nat} :
    s.cbcWindow k = false ↔ s.inProgress .cbcd = false ∨ s.regs.ctlen.toNat / 8 ≤ k := by
  rw [State.cbcWindow, Bool.and_eq_false_iff, decide_eq_false_iff_not, Nat.not_lt, Regs.blockCount]

theorem State.cbcWindow_idle {s : State} (k : Nat) (hs : s.seq = .idle) : s.cbcWindow k = false :=
  cbcWindow_eq_false_iff.2 (.inl (inProgress_idle hs))

/-- Settles O44: a read of PTBUF is `ptbufSeen`, inside the window of the running CBCD and outside it. -/
theorem ptbufReadWhileCbcdRuns : Obligations.PtbufReadWhileCbcdRuns := by
  intro s k hk
  rw [hostRead_ptbuf s hk]
  constructor
  · intro hrun hlt
    have hseen := State.ptbufSeen_of_cbcWindow (State.cbcWindow_eq_true_iff.2 ⟨hrun, hlt⟩)
    exact hseen.imp (congrArg _) (congrArg _)
  · intro hout
    rw [State.ptbufSeen_of_not_cbcWindow (State.cbcWindow_eq_false_iff.2 hout)]

/-! ### A write to CTBUF on an idle core -/

theorem State.readReg_storeBlock (s : State) (sp : Space) (k : Nat) (b : Block) (r : Reg) :
    (s.storeBlock sp k b).readReg r = s.readReg r := by
  cases r <;> simp only [State.readReg, State.storeBlock_status, State.storeBlock_errcode, State.storeBlock_regs]

/-- A block stored to CTBUF leaves what an idle core answers at every other address (20_memory.md R59 (b)). -/
theorem hostRead_storeBlock_ctbuf_other {s : State} {k : Nat} {a : HostAddr} (b : Block) (hs : s.seq = .idle)
    (ha : a ≠ BitVec.ofNat 12 (0x400 + k)) : hostRead a (s.storeBlock .ctbuf k b) = hostRead a s := by
  cases ht : target a with
  | reg r => simp only [hostRead, ht, State.readReg_storeBlock]
  | ctbuf m =>
    have hm : m ≠ k := by
      rintro rfl
      exact ha (addr_of_target_ctbuf ht)
    simp only [hostRead, ht, State.blockAt_storeBlock_other s b (sp' := .ctbuf) (.inr hm)]
  | ptbuf m =>
    have hs' : (s.storeBlock .ctbuf k b).seq = .idle := by rw [State.storeBlock_seq, hs]
    simp only [hostRead, ht, State.ptbufSeen_of_not_cbcWindow (State.cbcWindow_idle m hs),
      State.ptbufSeen_of_not_cbcWindow (State.cbcWindow_idle m hs'),
      State.blockAt_storeBlock_other s b (sp := .ctbuf) (sp' := .ptbuf) (.inl nofun)]
  | unmapped => simp only [hostRead, ht]

/-- Settles O41: an accepted write stores the block, and the laws of `storeBlock` say what is read afterwards. -/
theorem writtenCtbufBlockReadsBack : Obligations.WrittenCtbufBlockReadsBack := by
  refine ⟨fun s k hk => hostRead_ctbuf s hk, fun s k v ⟨hs, hb, hf⟩ hk => ?_⟩
  have hsame := s.blockAt_storeBlock_same .ctbuf k (v.setWidth 8)
  refine ⟨s.storeBlock .ctbuf k (v.setWidth 8), hostWrite_ctbuf v hk hb hf, hsame, fun m hm => ?_, rfl, ?_,
    fun a ha => hostRead_storeBlock_ctbuf_other _ hs ha⟩
  · exact s.blockAt_storeBlock_other _ (.inr hm)
  · rw [hostRead_ctbuf _ hk, hsame]
    exact setWidth_setWidth_bus 8 v

end Sys2Proof.Machine
end

section
/-! The format of command words: a word is its three fields, and the rows of the opcode map are read off the fields
(30_encoding.md R70, R72, R73). -/

namespace Sys2Proof

/-! ### The fields of a word -/

@[simp] theorem opcField_cmdWord (sel : BitVec 2) (opc : BitVec 4) : opcField (cmdWord sel opc) = opc := by
  revert sel opc
  decide

/-- A word with bits 7:6 at 00 is put together from its other two fields. -/
theorem cmdWord_fields {c : CmdWord} (h : zField c = 0#2) : cmdWord (selField c) (opcField c) = c := by
  revert c
  decide

/-- A word that KSCHED's row selects has the row's pattern everywhere but in SEL. -/
theorem cmdWord_of_ksched_mask {c : CmdWord} (h : c &&& 0xCF#8 = 0x05#8) : cmdWord (selField c) 0x5#4 = c := by
  revert c
  decide

/-- A word that a row selects is the word of the row's command: the mask of every row but KSCHED's covers all bits. -/
theorem encode_build_of_selects {r : OpcodeRow} (hr : r ∈ opcodeRows) {c : CmdWord} (h : r.selects c = true) :
    encode (r.build (selField c)) = c := by
  have hexact {p : CmdWord} (hp : c &&& 0xFF#8 = p) : p = c := hp.symm.trans BitVec.and_allOnes
  rw [OpcodeRow.selects, beq_iff_eq] at h
  simp only [opcodeRows, List.mem_cons, List.not_mem_nil, or_false] at hr
  obtain rfl | rfl | rfl | rfl | rfl | rfl | rfl | rfl | rfl | rfl := hr
  iterate 5 exact hexact h
  · exact cmdWord_of_ksched_mask h
  iterate 4 exact hexact h

theorem decode_encode (i : Instr) : decode (encode i) = .ok i := by
  cases i with
  | ksched sel => revert sel; decide
  | _ => rfl

theorem encode_of_decode {c : CmdWord} {i : Instr} (h : decode c = .ok i) : encode i = c := by
  unfold decode at h
  split at h
  · next r hfind =>
    cases h
    have hsel : r.selects c = true := List.find?_some (p := (OpcodeRow.selects · c)) hfind
    exact encode_build_of_selects (List.mem_of_find?_eq_some hfind) hsel
  · cases h

/-- Settles O1: the word of each command is in its row of the map, and a row selects no word of another command. -/
theorem decodeAndEncodeAgree : Obligations.DecodeAndEncodeAgree := by
  intro c i
  constructor
  · exact encode_of_decode
  · rintro rfl
    exact decode_encode i

/-- Settles O2: each word is the word of its command. -/
theorem commandWordsDecode : Obligations.CommandWordsDecode :=
  ⟨decode_encode .nop, decode_encode .enc1, decode_encode .dec1, decode_encode .enc2, decode_encode .dec2,
    decode_encode (.ksched 1), decode_encode (.ksched 2), decode_encode .mitm, decode_encode .brute,
    decode_encode .cbcd, decode_encode .clr⟩

/-! ### The words that are no command -/

/-- The decoder rejects just the words that no command has. -/
theorem decode_error_iff (c : CmdWord) : (∃ why, decode c = .error why) ↔ ∀ i, encode i ≠ c := by
  constructor
  · rintro ⟨why, hwhy⟩ i rfl
    rw [decode_encode] at hwhy
    cases hwhy
  · intro hnone
    cases hd : decode c with
    | error why => exact ⟨why, rfl⟩
    | ok i => exact absurd (encode_of_decode hd) (hnone i)

theorem wordFields (i : Instr) : Laws.WordFields.Statement i := by
  cases i with
  | nop => exact Laws.WordFields.nop
  | enc1 => exact Laws.WordFields.enc1
  | dec1 => exact Laws.WordFields.dec1
  | enc2 => exact Laws.WordFields.enc2
  | dec2 => exact Laws.WordFields.dec2
  | ksched sel => exact Laws.WordFields.ksched sel
  | mitm => exact Laws.WordFields.mitm
  | brute => exact Laws.WordFields.brute
  | cbcd => exact Laws.WordFields.cbcd
  | clr => exact Laws.WordFields.clr

/-- Each operation code up to 9 belongs to a command whose word with SEL = 00 carries it (30_encoding.md R72). -/
theorem exists_encode_of_opc {opc : BitVec 4} (h : opc.toNat < 10) : ∃ i, encode i = cmdWord 0#2 opc := by
  have hall : ∀ opc : BitVec 4, opc.toNat < 10 →
      ∃ i ∈ [Instr.nop, .enc1, .dec1, .enc2, .dec2, .ksched 0, .mitm, .brute, .cbcd, .clr],
        encode i = cmdWord 0#2 opc := by decide
  obtain ⟨i, -, hi⟩ := hall opc h
  exact ⟨i, hi⟩

/-- The words that commands have, by their fields. -/
theorem exists_encode_iff (c : CmdWord) :
    (∃ i, encode i = c) ↔
      zField c = 0#2 ∧ (opcField c).toNat < 10 ∧ (opcField c = 5#4 ∨ selField c = 0#2) := by
  constructor
  · rintro ⟨i, rfl⟩
    obtain ⟨hz, hopc, hsel⟩ := wordFields i
    refine ⟨hz, by bv_omega, ?_⟩
    by_cases hk : ∃ sel, i = .ksched sel
    · obtain ⟨sel, rfl⟩ := hk
      exact .inl (opcField_cmdWord sel 0x5)
    · exact .inr (hsel (not_exists.mp hk))
  · rintro ⟨hz, hopc, hk | hsel⟩
    · have hc := cmdWord_fields hz
      rw [hk] at hc
      exact ⟨.ksched (selField c), hc⟩
    · obtain ⟨i, hi⟩ := exists_encode_of_opc hopc
      exact ⟨i, by rw [hi, ← hsel, cmdWord_fields hz]⟩

/-- Settles O3: the rejected words are those that no command has, and the fields say which these are. -/
theorem reservedWordsAreRejected : Obligations.ReservedWordsAreRejected := by
  intro c
  have hfields := not_congr (exists_encode_iff c)
  rw [decode_error_iff, ← not_exists, hfields]
  simp only [zField, opcField, selField, not_and_or, not_or, not_lt, ne_eq]

end Sys2Proof
end

section
/-! What a host script's lines stand for (30_encoding.md R75, R76; 20_memory.md R54). -/

namespace Sys2Proof.Machine

/-! ### The blocks of a hexadecimal string -/

theorem hexBlocks_length {digits : List (Fin 16)} {N : Nat} (h : digits.length = 2 * N) :
    (hexBlocks digits).length = N := by
  induction N generalizing digits with
  | zero => rw [List.length_eq_zero_iff.mp h]; rfl
  | succ N ih =>
    obtain _ | ⟨hi, _ | ⟨lo, rest⟩⟩ := digits
    · simp at h
    · simp at h; omega
    · simp only [List.length_cons] at h
      simp [hexBlocks, ih (digits := rest) (by omega)]

/-- Block `i` of a string is the value of its digits `2 i` and `2 i + 1`. -/
theorem hexBlocks_getElem? {digits : List (Fin 16)} {i : Nat} (h : 2 * i + 1 < digits.length) :
    (hexBlocks digits)[i]? = some (Literal.hex [digits.getD (2 * i) 0, digits.getD (2 * i + 1) 0]).value := by
  induction i generalizing digits with
  | zero =>
    obtain _ | ⟨hi, _ | ⟨lo, rest⟩⟩ := digits
    · simp at h
    · simp at h
    · simp [hexBlocks, Literal.value]
  | succ i ih =>
    obtain _ | ⟨hi, _ | ⟨lo, rest⟩⟩ := digits
    · simp at h
    · simp at h
    · simp only [List.length_cons] at h
      have hrest := ih (digits := rest) (by omega)
      simpa [hexBlocks, Nat.mul_add] using hrest

theorem writeBlocks_length (k : Nat) (bs : List Nat) : (writeBlocks k bs).length = bs.length := by
  induction bs generalizing k with
  | nil => rfl
  | cons b bs ih => simp [writeBlocks, ih]

theorem writeBlocks_getElem? (k : Nat) (bs : List Nat) (i : Nat) :
    (writeBlocks k bs)[i]? = bs[i]?.map (writeCtbuf (k + i)) := by
  induction bs generalizing k i with
  | nil => rfl
  | cons b bs ih =>
    cases i with
    | zero => rfl
    | succ i => simp [writeBlocks, ih, Nat.add_right_comm, Nat.add_assoc]

/-! ### The line LDCT -/

section
variable {digits : List (Fin 16)} {N : Nat} (h : digits.length = 2 * N)
include h

theorem Line.ldct_actions :
    (Line.ldct digits).actions = writeBlocks 0 (hexBlocks digits) ++ (Line.wr .ctlen (.dec (8 * N))).actions := by
  simp only [Line.actions, hexBlocks_length h]
  rfl

theorem Line.ldct_blocks_length : (writeBlocks 0 (hexBlocks digits)).length = N := by
  rw [writeBlocks_length, hexBlocks_length h]

/-- LDCT of `2 N` digits: the `N` lines WB of its pairs of digits, then WR of CTLEN (30_encoding.md R76). -/
theorem Line.ldct_expands :
    (Line.ldct digits).actions.length = N + 1 ∧
    (∀ i < N, (Line.ldct digits).actions[i]? =
      (Line.wb i (.hex [digits.getD (2 * i) 0, digits.getD (2 * i + 1) 0])).actions[0]?) ∧
    (Line.ldct digits).actions[N]? = (Line.wr .ctlen (.dec (8 * N))).actions[0]? := by
  have hlen := Line.ldct_blocks_length h
  rw [Line.ldct_actions h]
  refine ⟨?_, fun i hi => ?_, ?_⟩
  · rw [List.length_append, hlen]
    rfl
  · rw [List.getElem?_append_left (by omega), writeBlocks_getElem?, hexBlocks_getElem? (by omega), Nat.zero_add]
    rfl
  · rw [List.getElem?_append_right (by omega), hlen, Nat.sub_self]

end

/-! ### Registers and literals -/

theorem Literal.bin_append (ds : List Bool) (d : Bool) :
    (Literal.bin (ds ++ [d])).value = 2 * (Literal.bin ds).value + d.toNat := by
  simp only [Literal.value, List.foldl_append, List.foldl_cons, List.foldl_nil]

theorem Literal.hex_append (ds : List (Fin 16)) (d : Fin 16) :
    (Literal.hex (ds ++ [d])).value = 16 * (Literal.hex ds).value + d.val := by
  simp only [Literal.value, List.foldl_append, List.foldl_cons, List.foldl_nil]

/-- Settles O48: the lines but LDCT stand for what their definition lists; LDCT's writes are counted and read block by
block. -/
theorem pseudoLinesExpand : Obligations.PseudoLinesExpand := by
  refine ⟨by decide, ⟨fun _ => rfl, fun d => ?_, fun ds d _ => Literal.bin_append ds d, fun d => ?_,
      fun ds d _ => Literal.hex_append ds d⟩,
    fun _ _ _ => rfl, fun _ => rfl, fun i _ => ⟨fun _ _ => rfl, rfl, rfl⟩, fun _ _ => rfl,
    ⟨rfl, fun _ _ => List.flatMap_cons, fun _ _ => rfl⟩, rfl, fun _ => rfl, fun _ _ _ => rfl,
    fun _ _ h => Line.ldct_expands h, rfl⟩
  · exact (Literal.bin_append [] d).trans (Nat.zero_add _)
  · exact (Literal.hex_append [] d).trans (Nat.zero_add _)

end Sys2Proof.Machine
end

section
/-! The host's turn, action by action (20_memory.md R59, 30_encoding.md R70, R75, R76). -/

namespace Sys2Proof.Machine

/-! ### Whose turn it is -/

theorem Seq.running_eq_false_iff {q : Seq} : q.running = false ↔ q = .idle := by
  cases q <;> simp [Seq.running]

/-- While a command runs on a core that is not halted, the host moves when the schedule says so and it has an action
left (log 2). -/
theorem nextMover_host_iff {s : State} (hs : s.seq ≠ .idle) (hf : s.status.fault = false) :
    nextMover s = .host ↔ s.schedule.head? = some .host ∧ s.script ≠ [] := by
  have hrun : s.seq.running = true := by
    simpa using mt Seq.running_eq_false_iff.mp hs
  unfold nextMover
  rw [hrun, hf]
  rcases s.schedule with _ | ⟨_ | _, _⟩ <;> simp

theorem step_of_host {s : State} (hm : nextMover s = .host) : step s = hostTurn s.takeTurn := by
  simp only [step, hm]

theorem State.takeTurn_withScript (s : State) (rest : List Action) : s.takeTurn.withScript rest =
    { s with script := rest, schedule := if s.seq = .idle then s.schedule else s.schedule.tail } := by
  unfold State.takeTurn
  cases hs : s.seq with
  | idle => simp [Seq.running, State.withScript, hs]
  | run op ph i j n => simp [Seq.running, State.withScript]

/-! ### The actions -/

section
variable {s : State} {a : HostAddr} {v : HostWord} {rest : List Action}

theorem hostTurn_nil (h : s.script = []) : hostTurn s = .next s := by
  simp only [hostTurn, h]

theorem hostTurn_write (h : s.script = .write a v :: rest) : hostTurn s = hostWrite a v (s.withScript rest) := by
  simp only [hostTurn, h]

theorem hostTurn_writeLast (h : s.script = .writeLast a :: rest) {earlier : List HostWord}
    (hv : s.reads = v :: earlier) : hostTurn s = hostWrite a v (s.withScript rest) := by
  simp only [hostTurn, h, hv]

theorem hostTurn_writeLast_nothing (h : s.script = .writeLast a :: rest) (hv : s.reads = []) :
    hostTurn s = .next (s.withScript rest) := by
  simp only [hostTurn, h, hv]

/-- WAIT reads STATUS, and is kept for another turn while BUSY = 1. -/
theorem hostTurn_wait (h : s.script = .wait :: rest) : hostTurn s = .next { s with
    reads := s.status.word.setWidth 16 :: s.reads
    script := if s.status.busy then .wait :: rest else rest } := by
  have hread : hostRead Reg.status.addr s = s.status.word.setWidth 16 := hostRead_addr s .status
  simp only [hostTurn, h, State.recordRead, State.withScript, hread]

/-- A command word written to CMD acts as the decoded command. -/
theorem hostWrite_command {i : Instr} (hb : s.status.busy = false) (hf : s.status.fault = false)
    (hd : decode (v.setWidth 8) = .ok i) : hostWrite Reg.cmd.addr v s = exec i s := by
  rw [hostWrite, State.gated_ready _ hf hb]
  simp only [target_addr, issueWord, hd]

end

/-! ### Steps of the host -/

/-- On an idle core the host's write of a command word is the command's meaning. -/
theorem step_of_command {s : State} {v : HostWord} {rest : List Action} {i : Instr} (hr : s.ready)
    (hs : s.script = .write Reg.cmd.addr v :: rest) (hd : decode (v.setWidth 8) = .ok i) :
    step s = exec i (s.withScript rest) := by
  obtain ⟨hseq, hb, hf⟩ := hr
  rw [step_of_host (nextMover_idle hseq), State.takeTurn_idle hseq, hostTurn_write hs]
  exact hostWrite_command hb hf hd

theorem State.withFetchWord_idle {s : State} (hs : s.seq = .idle) (nbits w : Nat) : s.withFetchWord nbits w =
    s.withScript (.write Reg.cmd.addr (BitVec.ofNat 16 (w % 2 ^ nbits)) :: s.script) := by
  simp only [State.withFetchWord, Seq.running_eq_false_iff.mpr hs, Bool.false_eq_true, if_false, State.withScript]

/-- The word that `withFetchWord` writes is the command's word, extended to the bus. -/
theorem decode_fetched_word (i : Instr) :
    decode ((BitVec.ofNat 16 ((encode i).toNat % 2 ^ 8)).setWidth 8) = .ok i := by
  have hword : (BitVec.ofNat 16 ((encode i).toNat % 2 ^ 8)).setWidth 8 = encode i := by bv_omega
  rw [hword, decode_encode]

/-- Settles O4: the clauses on who moves from `nextMover`, the others action by action. -/
theorem stepRunsTheWrittenCommand : Obligations.StepRunsTheWrittenCommand := by
  refine ⟨fun s v rest i hr hs hd => step_of_command hr hs hd, fun s i hr => ?_,
    fun s hs => ⟨nextMover_idle hs, fun hnil => ?_⟩, fun s => nextMover_host_iff, fun s rest hm => ?_⟩
  · rw [State.withFetchWord_idle hr.1]
    exact step_of_command hr rfl (decode_fetched_word i)
  · rw [step_of_host (nextMover_idle hs), State.takeTurn_idle hs, hostTurn_nil hnil]
  · rw [step_of_host hm]
    dsimp only
    rw [← State.takeTurn_withScript]
    have hscript := s.takeTurn_script
    have hreads := s.takeTurn_reads
    exact ⟨fun a v hs => hostTurn_write (hscript.trans hs), fun a hs =>
      ⟨fun v earlier hv => hostTurn_writeLast (hscript.trans hs) (hreads.trans hv),
        fun hv => hostTurn_writeLast_nothing (hscript.trans hs) (hreads.trans hv)⟩⟩

/-- Settles O47: the turn is the host's, and WAIT reads STATUS in it. -/
theorem waitPollsStatus : Obligations.WaitPollsStatus := by
  intro s rest hm hs
  rw [step_of_host hm, hostTurn_wait (s.takeTurn_script.trans hs)]
  cases hrun : s.seq.running <;> simp only [State.takeTurn, hrun] <;> rfl

end Sys2Proof.Machine
end

section
/-! The permutation network and the circular rotation, bit by bit (40_bitvector_permutation.md R91, R93, R96). -/

namespace Sys2Proof.Machine

/-! ### The constant vectors -/

@[simp] theorem bit_zero (w i : Nat) : bit (0#w) i = false :=
  BitVec.getMsbD_zero

@[simp] theorem bit_allOnes (w i : Nat) : bit (BitVec.allOnes w) i = decide (i < w) :=
  BitVec.getMsbD_allOnes

/-! ### perm -/

/-- The value of `perm` at every index, those past its end included. -/
theorem bit_perm {w : Nat} (m : Nat) (T : List Nat) (v : BitVec w) (i : Nat) :
    bit (perm m T v) i = (decide (i < m) && bit v (T.getD i 0 - 1)) :=
  bit_vecOf m _ i

theorem bit_perm_getElem {w : Nat} (T : List Nat) (v : BitVec w) {i : Nat} (h : i < T.length) :
    bit (perm T.length T v) i = bit v (T[i] - 1) := by
  rw [bit_perm, decide_eq_true h, Bool.true_and, List.getD_eq_getElem T 0 h]

theorem perm_xor {w : Nat} (m : Nat) (T : List Nat) (a b : BitVec w) :
    perm m T (a ^^^ b) = perm m T a ^^^ perm m T b := by
  refine eq_of_bit_eq fun i hi => ?_
  simp only [bit_xor, bit_perm, hi, decide_true, Bool.true_and]

theorem perm_zero (w m : Nat) (T : List Nat) : perm m T (0#w) = 0#m := by
  refine eq_of_bit_eq fun i _ => ?_
  rw [bit_perm, bit_zero, bit_zero, Bool.and_false]

/-- Every output bit is taken from inside the vector. -/
theorem perm_allOnes {w : Nat} {T : List Nat} (hT : ∀ e ∈ T, 1 ≤ e ∧ e ≤ w) :
    perm T.length T (BitVec.allOnes w) = BitVec.allOnes T.length := by
  refine eq_of_bit_eq fun i hi => ?_
  obtain ⟨hpos, hle⟩ := hT T[i] (List.getElem_mem hi)
  have hin : T[i] - 1 < w := by omega
  rw [bit_perm_getElem T _ hi, bit_allOnes, bit_allOnes, decide_eq_true hin, decide_eq_true hi]

/-- Settles O6: the laws of `perm` bit by bit, and the rule's two examples evaluated. -/
theorem permSelectsSourcePositions : Obligations.PermSelectsSourcePositions :=
  ⟨fun _ T v _ h => bit_perm_getElem T v h, fun _ => perm_xor, perm_zero, fun _ _ => perm_allOnes,
    by decide, by decide⟩

/-! ### rotl -/

theorem bit_rotl {w : Nat} (v : BitVec w) (k : Nat) {i : Nat} (hi : i < w) :
    bit (rotl v k) i = bit v ((i + k) % w) := by
  rw [bit, rotl, BitVec.getMsbD_rotateLeft, decide_eq_true hi, Bool.true_and, Nat.add_comm k i, bit]

theorem rotl_rotl {w : Nat} (v : BitVec w) (a b : Nat) : rotl (rotl v a) b = rotl v ((a + b) % w) := by
  refine eq_of_bit_eq fun i hi => ?_
  have hmid : (i + b) % w < w := Nat.mod_lt _ (Nat.zero_lt_of_lt hi)
  have hsource : ((i + b) % w + a) % w = (i + (a + b) % w) % w := by
    rw [Nat.mod_add_mod, Nat.add_mod_mod, Nat.add_assoc, Nat.add_comm b a]
  rw [bit_rotl _ b hi, bit_rotl v a hmid, bit_rotl v _ hi, hsource]

theorem rotl_zero {w : Nat} (v : BitVec w) : rotl v 0 = v := by
  refine eq_of_bit_eq fun i hi => ?_
  rw [bit_rotl v 0 hi, Nat.add_zero, Nat.mod_eq_of_lt hi]

theorem zero_rotl (w k : Nat) : rotl (0#w) k = 0#w := by
  refine eq_of_bit_eq fun i hi => ?_
  rw [bit_rotl _ k hi, bit_zero, bit_zero]

theorem allOnes_rotl (w k : Nat) : rotl (BitVec.allOnes w) k = BitVec.allOnes w := by
  refine eq_of_bit_eq fun i hi => ?_
  have hin : (i + k) % w < w := Nat.mod_lt _ (Nat.zero_lt_of_lt hi)
  rw [bit_rotl _ k hi, bit_allOnes, bit_allOnes, decide_eq_true hin, decide_eq_true hi]

/-- Settles O7: the laws of `rotl`, each from the source positions that `bit_rotl` gives. -/
theorem rotlIsCircular : Obligations.RotlIsCircular :=
  ⟨fun _ k _ v _ hi => bit_rotl v k hi, fun _ a b v _ _ => rotl_rotl v a b, fun _ => rotl_zero,
    fun w k => ⟨zero_rotl w k, allOnes_rotl w k⟩⟩

end Sys2Proof.Machine
end

section
/-! The S-box lookup and the round function (42_sbox_round.md R110, R112). -/

namespace Sys2Proof.Machine

/-! ### sbox -/

/-- A row or column index is made of two bits, so it is in 0..3. -/
theorem two_mul_toNat_add_toNat_lt (hi lo : Bool) : 2 * hi.toNat + lo.toNat < 4 := by
  have hhi := hi.toNat_lt
  have hlo := lo.toNat_lt
  omega

/-- The entry that is looked up, for an input whose four bits are known. -/
theorem sbox_of_bits (B : List (List Nat)) {x : Half} {b0 b1 b2 b3 : Bool}
    (h0 : bit x 0 = b0) (h1 : bit x 1 = b1) (h2 : bit x 2 = b2) (h3 : bit x 3 = b3) :
    sbox B x = BitVec.ofNat 2 ((B.getD (2 * b0.toNat + b3.toNat) []).getD (2 * b1.toNat + b2.toNat) 0) := by
  subst h0 h1 h2 h3
  rfl

theorem sbox_zero (B : List (List Nat)) : sbox B 0#4 = BitVec.ofNat 2 ((B.getD 0 []).getD 0 0) :=
  sbox_of_bits B (bit_zero 4 0) (bit_zero 4 1) (bit_zero 4 2) (bit_zero 4 3)

/-- Settles O8: the definition with its index bounds, the corner cases from the bits of their inputs, and the rule's
two examples evaluated. -/
theorem sboxReadsRowAndColumn : Obligations.SboxReadsRowAndColumn :=
  ⟨fun _ _ => ⟨two_mul_toNat_add_toNat_lt _ _, two_mul_toNat_add_toNat_lt _ _, rfl⟩,
    fun B => ⟨sbox_zero B, sbox_of_bits B rfl rfl rfl rfl, sbox_of_bits B rfl rfl rfl rfl,
      sbox_of_bits B rfl rfl rfl rfl⟩,
    by decide, by decide⟩

/-! ### roundF -/

theorem slice_zero (w a m : Nat) : slice (0#w) a m = 0#m :=
  BitVec.extractLsb'_zero

/-- Both boxes see zeros when the round key is the expanded half. -/
theorem roundF_perm_ep (t : Tables) (h : Half) :
    roundF t h (perm 8 t.ep h) = perm 4 t.p4 (sbox t.s1 0#4 ++ sbox t.s2 0#4) := by
  rw [roundF, BitVec.xor_self, slice_zero, slice_zero]

/-- Settles O11: the two boxes' values at zero are their first entries. -/
theorem expandedHalfFeedsZerosToTheBoxes : Obligations.ExpandedHalfFeedsZerosToTheBoxes := by
  intro t h
  rw [roundF_perm_ep, sbox_zero, sbox_zero]

end Sys2Proof.Machine
end

section
/-! The block cipher (43_block_cipher.md R120 to R122): `transform` unrolled into its two rounds, its worked example,
and the round trip. -/

namespace Sys2Proof.Machine

theorem stdTables_wf : stdTables.wf = true := by decide

/-- The worked example of 43_block_cipher.md R121 under STD. -/
theorem cipherE_stdTables_example : cipherE stdTables 0xA5 0x282 = 0xCA := by decide +kernel

/-- The two rounds of a direction, one after the other; the final right half goes first into IP_INV. -/
theorem transform_of_selectors (t : Tables) (b : Block) (k : Key) {dir : Direction} {s1 s2 : Selector}
    (h : dir.selectors = [s1, s2]) :
    let p := perm 8 t.ip b
    let lr := feistelRound t k (feistelRound t k (slice p 0 4, slice p 4 4) s1) s2
    transform t b k dir = perm 8 t.ipInv (lr.2 ++ lr.1) := by
  simp only [transform, h, List.foldl_cons, List.foldl_nil]

/-- Settles O12: each direction has the two selectors the statement names, and the halves are those of its rounds. -/
theorem transformUnrolls : Obligations.TransformUnrolls := by
  refine ⟨?_, cipherE_stdTables_example⟩
  rintro t b k dir s1 s2 l0 r0 l1 r1 l2 r2 hdir rfl rfl rfl rfl rfl rfl
  have hsel : dir.selectors = [s1, s2] := by
    obtain ⟨rfl, rfl, rfl⟩ | ⟨rfl, rfl, rfl⟩ := hdir <;> rfl
  exact transform_of_selectors t b k hsel

/-- Under a fixed key, decryption is the two-sided inverse of encryption. -/
theorem cipherE_bijective {t : Tables} (h : t.wf = true) (k : Key) : Function.Bijective (fun b => cipherE t b k) :=
  Function.bijective_iff_has_inverse.2
    ⟨fun b => cipherD t b k, fun b => cipherD_cipherE h b k, fun b => cipherE_cipherD h b k⟩

/-- Settles O13: a Feistel network run with its selectors reversed undoes itself (`transform_transform`), and each
direction's selectors are the other's reversed; STD is one of the well-formed TABLES. -/
theorem decryptionUndoesEncryption : Obligations.DecryptionUndoesEncryption :=
  ⟨fun _ b k h => ⟨cipherD_cipherE h b k, cipherE_cipherD h b k⟩, fun _ k h => cipherE_bijective h k,
    cipherD_cipherE stdTables_wf _ _⟩

end Sys2Proof.Machine
end

section
/-! The single-phase commands (43_block_cipher.md R123, R124; 44_double_cipher.md R133, R134): what one does when it is
issued and when it commits, and what it leaves alone whatever it does. -/

namespace Sys2Proof.Machine

section
variable {i : Instr} (result : State → Latch) {s t : State}

/-- A core that is idle and not halted accepts a single-phase command. -/
theorem singlePhase_of_ready (h : s.ready) : singlePhase i result s = .next (s.startedWith i .exec) := by
  obtain ⟨hseq, hbusy, hfault⟩ := h
  exact runCommand_issue _ _ _ hseq hbusy hfault

/-- The one sequencer step of a single-phase command commits its result. -/
theorem singlePhase_of_executing {ph : Phase} {a b n : Nat} (h : s.executing i ph a b n) :
    singlePhase i result s = .next (s.finish (result s)) := by
  obtain ⟨hseq, hwf⟩ := h
  exact runCommand_advance _ _ _ (by simp [State.inProgress_run hseq]) hwf

variable {result}

/-- Everything a single-phase command can do when it answers a next state: commit, be ignored by a halted core, be lost
on a busy one, or start. It has no check of its own, so it is never rejected. -/
theorem singlePhase_cases (h : singlePhase i result s = .next t) :
    t = s.finish (result s) ∨
    t = s ∨
    (s.inProgress i = false ∧ s.status.busy = true ∧ t = s.noteOverrun) ∨
    t = s.openEpisode.startRun i .exec := by
  obtain ⟨-, -, ht⟩ | ⟨-, -, ht⟩ | ⟨hp, -, hb, ht⟩ | ⟨-, -, -, -, ht⟩ | ⟨-, -, -, hcheck, -⟩ := runCommand_cases h
  · exact .inl ht
  · exact .inr (.inl ht)
  · exact .inr (.inr (.inl ⟨hp, hb, ht⟩))
  · exact .inr (.inr (.inr ht))
  · exact absurd rfl hcheck

theorem SameBlocksBut.of_mem_eq (hmem : ∀ sp, t.mem sp = s.mem sp) (hresets : t.resets = s.resets)
    (place : Option (Space × Nat)) : SameBlocksBut place s t :=
  fun sp k _ => State.blockAt_congr (hmem sp) hresets k

/-- The registers change at most by the result the command latches. -/
theorem singlePhase_regs (h : singlePhase i result s = .next t) :
    t.regs = s.regs ∨ t.regs = (result s).intoRegs s.regs := by
  obtain rfl | rfl | ⟨-, -, rfl⟩ | rfl := singlePhase_cases h
  · exact .inr rfl
  · exact .inl rfl
  · exact .inl rfl
  · exact .inl rfl

theorem singlePhase_sameStickyFlags (h : singlePhase i result s = .next t) : SameStickyFlags i s t := by
  obtain rfl | rfl | ⟨hp, hb, rfl⟩ | rfl := singlePhase_cases h
  · exact ⟨rfl, fun _ => rfl⟩
  · exact ⟨rfl, fun _ => rfl⟩
  · exact ⟨rfl, fun hor => by simp [hp, hb] at hor⟩
  · exact ⟨rfl, fun _ => rfl⟩

theorem singlePhase_keeps_hidden (h : singlePhase i result s = .next t) :
    t.chain = s.chain ∧ t.ptOld = s.ptOld ∧ SameBlocksBut none s t := by
  obtain rfl | rfl | ⟨-, -, rfl⟩ | rfl := singlePhase_cases h
  · exact ⟨rfl, rfl, .of_mem_eq (s.finish_keeps _).2 rfl none⟩
  · exact ⟨rfl, rfl, .of_mem_eq (fun _ => rfl) rfl none⟩
  · exact ⟨rfl, rfl, .of_mem_eq (fun sp => by cases sp <;> rfl) rfl none⟩
  · exact ⟨rfl, rfl, .of_mem_eq (fun sp => by cases sp <;> rfl) rfl none⟩

end

theorem exec_enc1_singlePhase (s : State) :
    exec .enc1 s = singlePhase .enc1 (fun s => .block (cipherE s.tables s.regs.din s.regs.key1)) s := rfl

theorem exec_dec1_singlePhase (s : State) :
    exec .dec1 s = singlePhase .dec1 (fun s => .block (cipherD s.tables s.regs.din s.regs.key1)) s := rfl

theorem exec_enc2_singlePhase (s : State) :
    exec .enc2 s = singlePhase .enc2 (fun s => .block (cipherE2 s.tables s.regs.din s.regs.key1 s.regs.key2)) s := rfl

theorem exec_dec2_singlePhase (s : State) :
    exec .dec2 s = singlePhase .dec2 (fun s => .block (cipherD2 s.tables s.regs.din s.regs.key1 s.regs.key2)) s := rfl

/-- The four cipher commands are single-phase commands whose result is a block. -/
theorem exec_cipher {i : Instr} (hi : i = .enc1 ∨ i = .dec1 ∨ i = .enc2 ∨ i = .dec2) :
    ∃ f : State → Block, ∀ s, exec i s = singlePhase i (fun s => .block (f s)) s := by
  obtain rfl | rfl | rfl | rfl := hi
  · exact ⟨_, exec_enc1_singlePhase⟩
  · exact ⟨_, exec_dec1_singlePhase⟩
  · exact ⟨_, exec_enc2_singlePhase⟩
  · exact ⟨_, exec_dec2_singlePhase⟩

/-- Settles O32: the frame of a single-phase command, whose latched block goes to DOUT. -/
theorem cipherCommandsFrame : Obligations.CipherCommandsFrame := by
  intro i s t hi h
  obtain ⟨f, hf⟩ := exec_cipher hi
  have hsingle : singlePhase i (fun s => .block (f s)) s = .next t := hf s ▸ h
  have hregs : t.regs = { s.regs with dout := t.regs.dout } := by
    obtain hr | hr := singlePhase_regs hsingle
    · rw [hr]
    · rw [hr, Latch.intoRegs]
  exact ⟨hregs, singlePhase_sameStickyFlags hsingle, exec_sameSurroundings h, singlePhase_keeps_hidden hsingle⟩

/-- Settles O16: ENC1 is the single-phase command whose result is `E(DIN, KEY1)`. -/
theorem enc1StoresEncryption : Obligations.Enc1StoresEncryption := by
  refine ⟨fun s h => ?_, fun s ph i j n h => ?_, cipherE_stdTables_example⟩
  · rw [exec_enc1_singlePhase, singlePhase_of_ready _ h]
  · rw [exec_enc1_singlePhase, singlePhase_of_executing _ h]
    rfl

/-- Settles O17: DEC1 is the single-phase command whose result is `D(DIN, KEY1)`; the example is the round trip of
ENC1's. -/
theorem dec1StoresDecryption : Obligations.Dec1StoresDecryption := by
  refine ⟨fun s h => ?_, fun s ph i j n h => ?_, ?_⟩
  · rw [exec_dec1_singlePhase, singlePhase_of_ready _ h]
  · rw [exec_dec1_singlePhase, singlePhase_of_executing _ h]
    rfl
  · rw [← cipherE_stdTables_example]
    exact cipherD_cipherE stdTables_wf _ _

end Sys2Proof.Machine
end

section
/-! The double cipher (44_double_cipher.md R130 to R134): its round trip, its worked example under STD, and the two
commands that store its value. -/

namespace Sys2Proof.Machine

/-! ### The round trip -/

theorem cipherD2_cipherE2 {t : Tables} (h : t.wf = true) (b : Block) (k1 k2 : Key) :
    cipherD2 t (cipherE2 t b k1 k2) k1 k2 = b := by
  rw [cipherD2, cipherE2, cipherD_cipherE h, cipherD_cipherE h]

theorem cipherE2_cipherD2 {t : Tables} (h : t.wf = true) (b : Block) (k1 k2 : Key) :
    cipherE2 t (cipherD2 t b k1 k2) k1 k2 = b := by
  rw [cipherE2, cipherD2, cipherE_cipherD h, cipherE_cipherD h]

/-- Settles O14: the order of the keys is the definition's, and the inner round trip cancels first, then the outer. -/
theorem doubleCipherRoundTrip : Obligations.DoubleCipherRoundTrip :=
  ⟨fun _ _ _ _ => ⟨rfl, rfl⟩, fun _ b k1 k2 h => ⟨cipherD2_cipherE2 h b k1 k2, cipherE2_cipherD2 h b k1 k2⟩⟩

/-! ### The worked example under STD (R133, R134) -/

/-- An encryption from the halves after IP, after the first round and after the second (43_block_cipher.md R121). -/
theorem cipherE_of_rounds {t : Tables} {b c : Block} {k : Key} (lr0 lr1 lr2 : Half × Half)
    (h0 : (slice (perm 8 t.ip b) 0 4, slice (perm 8 t.ip b) 4 4) = lr0)
    (h1 : feistelRound t k lr0 .one = lr1) (h2 : feistelRound t k lr1 .two = lr2)
    (hc : perm 8 t.ipInv (lr2.2 ++ lr2.1) = c) : cipherE t b k = c := by
  subst h0 h1 h2 hc
  exact transform_of_selectors t b k rfl

/-- The inner encryption of the example, under KEY1. -/
theorem cipherE_stdTables_inner : cipherE stdTables 0x48 0x2E9 = 0x01 :=
  cipherE_of_rounds (0x8, 0x2) (0x2, 0x4) (0x4, 0x0) (by decide) (by decide) (by decide) (by decide)

/-- The outer encryption of the example, under KEY2. -/
theorem cipherE_stdTables_outer : cipherE stdTables 0x01 0x1DA = 0x30 :=
  cipherE_of_rounds (0x0, 0x4) (0x4, 0x8) (0x8, 0x2) (by decide) (by decide) (by decide) (by decide)

theorem cipherE2_stdTables_example : cipherE2 stdTables 0x48 0x2E9 0x1DA = 0x30 := by
  rw [cipherE2, cipherE_stdTables_inner, cipherE_stdTables_outer]

/-! ### ENC2 and DEC2 -/

/-- What R133 and R134 share: the acceptance and the commit of a command whose result `f` is a block. -/
theorem exec_stores_block {i : Instr} (f : State → Block)
    (hexec : ∀ s, exec i s = singlePhase i (fun s => .block (f s)) s) :
    (∀ s : State, s.ready → exec i s = .next (s.startedWith i .exec)) ∧
    (∀ (s : State) (ph : Phase) (a b n : Nat), s.executing i ph a b n →
      exec i s = .next { s with
        regs := { s.regs with dout := f s }
        status := { s.status with busy := false, done := true }
        seq := .idle
        latch := .block (f s) }) := by
  refine ⟨fun s h => ?_, fun s ph a b n h => ?_⟩
  · rw [hexec, singlePhase_of_ready _ h]
  · rw [hexec, singlePhase_of_executing _ h]
    rfl

/-- Settles O18: ENC2 is the single-phase command whose result is `E2(DIN, KEY1, KEY2)`. -/
theorem enc2StoresDoubleEncryption : Obligations.Enc2StoresDoubleEncryption := by
  obtain ⟨haccept, hcommit⟩ := exec_stores_block _ exec_enc2_singlePhase
  exact ⟨haccept, hcommit, cipherE_stdTables_inner, cipherE2_stdTables_example⟩

/-- Settles O19: DEC2 is the single-phase command whose result is `D2(DIN, KEY1, KEY2)`; its example is the round trip
of ENC2's. -/
theorem dec2StoresDoubleDecryption : Obligations.Dec2StoresDoubleDecryption := by
  obtain ⟨haccept, hcommit⟩ := exec_stores_block _ exec_dec2_singlePhase
  refine ⟨haccept, hcommit, ?_, ?_⟩
  · rw [← cipherE_stdTables_outer]
    exact cipherD_cipherE stdTables_wf _ _
  · rw [← cipherE2_stdTables_example]
    exact cipherD2_cipherE2 stdTables_wf _ _ _

end Sys2Proof.Machine
end

section
/-! The key searches MITM and BRUTE from their acceptance to their report (45_key_recovery.md R146 to R152): a search is
under way or has committed its report, and every sequencer step keeps that. -/

namespace Sys2Proof.Machine

/-! ### A search under way, and its end -/

/-- Search `op` is in execution under the TABLES and with the registers it was issued with. -/
def SearchUnderWay (op : Instr) (t : Tables) (r : Regs) (u : State) : Prop :=
  u.inProgress op = true ∧ u.tables = t ∧ u.regs = r

/-- A search issued under TABLES `t` with registers `r` has committed its report (45_key_recovery.md R148, R150). -/
def SearchCommitted (t : Tables) (r : Regs) (u : State) : Prop :=
  u.ready ∧ u.status.done = true ∧ u.status.err = false ∧ u.errcode = .none ∧
    u.regs = { r with fk1 := u.regs.fk1, fk2 := u.regs.fk2 } ∧
    SearchReport t r u.status.found u.regs.fk1 u.regs.fk2

/-! ### Keys as numbers -/

theorem toNat_keyOf {k : Nat} (hk : k < Config.nKeys) : (keyOf k).toNat = k :=
  (BitVec.toNat_ofNat k 10).trans (Nat.mod_eq_of_lt hk)

theorem keyOf_toNat (k : Key) : keyOf k.toNat = k := by simp [keyOf]

/-- A key pair that makes the five ciphertexts from the five plaintexts is in the verified set (45_key_recovery.md
R142). -/
theorem verified_of_makes_pairs {t : Tables} {r : Regs} {k1 k2 : Key}
    (h : ∀ n : PairNo, cipherE2 t (r.p.get n) k1 k2 = r.c.get n) : verified t r k1.toNat k2.toNat = true := by
  have hagrees (n : PairNo) : pairAgrees t r k1.toNat k2.toNat n = true := by
    rw [pairAgrees, keyOf_toNat, keyOf_toNat, beq_iff_eq, h n]
  rw [verified, hagrees, crossValidated, Bool.true_and]
  exact List.all_eq_true.2 fun n _ => hagrees n

/-! ### The report of a search (45_key_recovery.md R146, R147, R149) -/

/-- A member of the verified set with no member before it is what a search reports. -/
theorem SearchReport.of_hit {s : State} {i j : Nat} (hi : i < Config.nKeys) (hj : j < Config.nKeys)
    (hmem : verified s.tables s.regs i j = true) (hnone : nothingBefore s i j) :
    SearchReport s.tables s.regs true (keyOf i) (keyOf j) := by
  rw [SearchReport, toNat_keyOf hi, toNat_keyOf hj]
  exact .inl ⟨rfl, hmem, hnone⟩

/-- With no member before the first row that is no key's, there is none. -/
theorem SearchReport.of_exhausted {s : State} {i : Nat} (hi : Config.nKeys ≤ i) (hnone : nothingBefore s i 0) :
    SearchReport s.tables s.regs false 0 0 :=
  .inr ⟨rfl, rfl, rfl, fun a b ha hb => hnone a b ha hb (.inl (by omega))⟩

section
variable {t : Tables} {r : Regs} {found found' : Bool} {a b a' b' : Key} (h : SearchReport t r found a b)
include h

/-- A search that reports nothing has had nothing to find. -/
theorem SearchReport.found_of_verified {k1 k2 : Key} (hmem : verified t r k1.toNat k2.toNat = true) :
    found = true := by
  obtain ⟨hfound, -⟩ | ⟨-, -, -, hempty⟩ := h
  · exact hfound
  · exact absurd hmem (by simp [hempty _ _ k1.isLt k2.isLt])

/-- The rules leave one report: of two members of the verified set, neither may come before the other. -/
theorem SearchReport.unique (h' : SearchReport t r found' a' b') : found = found' ∧ a = a' ∧ b = b' := by
  obtain ⟨rfl, hmem, hleast⟩ | ⟨rfl, rfl, rfl, hempty⟩ := h <;>
    obtain ⟨rfl, hmem', hleast'⟩ | ⟨rfl, rfl, rfl, hempty'⟩ := h'
  · have hnot : ¬lexBefore a.toNat b.toNat a'.toNat b'.toNat := fun hlex =>
      absurd hmem (by simp [hleast' _ _ a.isLt b.isLt hlex])
    have hnot' : ¬lexBefore a'.toNat b'.toNat a.toNat b.toNat := fun hlex =>
      absurd hmem' (by simp [hleast _ _ a'.isLt b'.isLt hlex])
    exact ⟨rfl, BitVec.eq_of_toNat_eq (by omega), BitVec.eq_of_toNat_eq (by omega)⟩
  · exact absurd hmem (by simp [hempty' _ _ a.isLt b.isLt])
  · exact absurd hmem' (by simp [hempty _ _ a'.isLt b'.isLt])
  · exact ⟨rfl, rfl, rfl⟩

end

/-! ### Sequencer steps of a search -/

section
variable {u : State} {op : Instr} {i j n : Nat} (h : Inv u)
include h

/-- A commit of the right report; what stands of the flags otherwise was clean while the search ran. -/
theorem Inv.searchCommitted_finish (hb : u.status.busy = true) {found : Option (Key × Key)}
    (hreport : SearchReport u.tables u.regs found.isSome (found.getD (0, 0)).1 (found.getD (0, 0)).2) :
    SearchCommitted u.tables u.regs (u.finish (.keyPair found)) := by
  obtain ⟨-, -, herr, hcode⟩ := h.flags.busyClean hb
  have hf := h.flags.no_fault_of_busy hb
  cases found <;> exact ⟨⟨rfl, rfl, hf⟩, rfl, herr, hcode, rfl, hreport⟩

/-- A step of SCAN goes on or commits the report, where its test of a pair is membership in the verified set and no
member comes before the pair. -/
theorem Inv.search_scanStep (hseq : u.seq = .run op .scan i j n) {hit : State → Nat → Nat → Bool}
    (hhit : hit u i j = verified u.tables u.regs i j) (hnone : nothingBefore u i j) :
    SearchUnderWay op u.tables u.regs (scanStep op hit i j n u) ∨
      SearchCommitted u.tables u.regs (scanStep op hit i j n u) := by
  obtain ⟨hi, hj⟩ := placeFits_scan ((sequencerInv_run_iff hseq).1 h.sequencer).1
  have hb := h.busy_of_run hseq
  have going (i' j' : Nat) : SearchUnderWay op u.tables u.regs (u.moveTo op .scan i' j' n) :=
    ⟨by simp [State.inProgress], rfl, rfl⟩
  obtain ⟨hmem, hu⟩ | ⟨-, -, hu⟩ | ⟨-, -, -, hu⟩ | ⟨hmiss, hj', hi', hu⟩ := scanStep_cases op hit i j n u <;> rw [hu]
  · exact .inr (h.searchCommitted_finish hb (.of_hit hi hj (hhit ▸ hmem) hnone))
  · exact .inl (going i (j + 1))
  · exact .inl (going (i + 1) 0)
  · have hrow := nothingBefore_nextRow (nothingBefore_next hnone (hhit ▸ hmiss)) hj'
    exact .inr (h.searchCommitted_finish hb (.of_exhausted hi' hrow))

/-- A sequencer step of a search goes on or commits the report. -/
theorem Inv.search_advanceOf {t : Tables} {r : Regs} (hop : op = .mitm ∨ op = .brute)
    (hu : SearchUnderWay op t r u) :
    SearchUnderWay op t r (advanceOf op u) ∨ SearchCommitted t r (advanceOf op u) := by
  obtain ⟨hp, rfl, rfl⟩ := hu
  obtain ⟨ph, i, j, n, hseq⟩ := State.inProgress_cases hp
  obtain ⟨hplace, hprogress⟩ := (sequencerInv_run_iff hseq).1 h.sequencer
  obtain rfl | rfl := hop
  · rw [advanceOf]
    cases ph with
    | fillF =>
      rw [advanceMitm_fillF hseq, fillForward]
      split <;> exact .inl ⟨rfl, rfl, rfl⟩
    | fillB =>
      rw [advanceMitm_fillB hseq, fillBackward]
      split <;> exact .inl ⟨rfl, rfl, rfl⟩
    | scan =>
      obtain ⟨hi, hj, -⟩ := hplace
      obtain ⟨hfwd, hbwd, hnone⟩ := hprogress
      rw [advanceMitm_scan hseq]
      exact h.search_scanStep hseq (mitmHit_eq_verified (h.no_fault_of_run hseq).2 hfwd hbwd hi hj) hnone
    | exec => exact hplace.elim
    | blocks => exact hplace.elim
  · rw [advanceOf, advanceBrute_run hseq]
    cases ph with
    | scan => exact h.search_scanStep hseq rfl hprogress
    | _ => exact hplace.elim

theorem Inv.of_coreStep : Inv (coreStep u) := by
  cases hseq : u.seq with
  | idle => rwa [coreStep_idle hseq]
  | run op ph i j n => exact coreStep_run hseq ▸ h.of_advanceOf hseq

/-- However many sequencer steps are taken, a search is under way or has committed its report. -/
theorem Inv.search_iterate {t : Tables} {r : Regs} (hop : op = .mitm ∨ op = .brute) (hu : SearchUnderWay op t r u)
    (c : Nat) : Inv (coreStep^[c] u) ∧
      (SearchUnderWay op t r (coreStep^[c] u) ∨ SearchCommitted t r (coreStep^[c] u)) := by
  induction c with
  | zero => exact ⟨h, .inl hu⟩
  | succ c ih =>
    rw [Function.iterate_succ_apply']
    obtain ⟨hc, hgoing | hdone⟩ := ih
    · obtain ⟨ph, a, b, n, hseq⟩ := State.inProgress_cases hgoing.1
      exact ⟨hc.of_coreStep, coreStep_run hseq ▸ hc.search_advanceOf hop hgoing⟩
    · have ⟨⟨hidle, _⟩, _⟩ := hdone
      rw [coreStep_idle hidle]
      exact ⟨hc, .inr hdone⟩

/-- A search that is left alone comes to its report, within the turns left. -/
theorem Inv.search_ends {t : Tables} {r : Regs} (hop : op = .mitm ∨ op = .brute) (hu : SearchUnderWay op t r u)
    (hscript : u.script = []) : ∃ k v, k ≤ u.turnsLeft ∧ runs k u = .next v ∧ SearchCommitted t r v := by
  obtain ⟨ph, i, j, n, hseq⟩ := State.inProgress_cases hu.1
  have hf := (h.no_fault_of_run hseq).1
  obtain ⟨k, v, c, hk, hv, hidle, -, halone⟩ :=
    h.episode_ends (by rw [hseq]; rfl) (hscript ▸ List.not_mem_nil)
  have hcore : Inv u.alone := h.withHostSide (fun hf' => absurd hf' (by simp [hf])) [] [] []
  obtain ⟨-, hgoing | hdone⟩ := hcore.search_iterate hop hu c
  · obtain ⟨hp, -⟩ := halone ▸ hgoing
    simp [State.inProgress_idle (s := v.alone) hidle] at hp
  · exact ⟨k, v, hk, hv, (halone ▸ hdone : SearchCommitted t r v.alone)⟩

end

/-! ### A search issued to an idle core -/

/-- An idle core that is not halted accepts a search, which has no check of its own. -/
theorem exec_search_of_ready {s : State} {i : Instr} (hi : i = .mitm ∨ i = .brute) (hr : s.ready) :
    exec i s = .next (startOf i s.openEpisode) := by
  obtain ⟨hseq, hb, hf⟩ := hr
  obtain rfl | rfl := hi
  · exact runCommand_issue _ _ _ hseq hb hf
  · exact runCommand_issue _ _ _ hseq hb hf

/-- A search that has just started is under way. -/
theorem searchUnderWay_startOf (s : State) {i : Instr} (hi : i = .mitm ∨ i = .brute) :
    SearchUnderWay i s.tables s.regs (startOf i s.openEpisode) := by
  obtain rfl | rfl := hi <;> exact ⟨rfl, rfl, rfl⟩

/-- The turns that a search just started takes at most, if the schedule gives the host none (45_key_recovery.md
R152). -/
theorem turnsLeft_startOf_search {s : State} (hsched : s.schedule = []) {i : Instr} (hi : i = .mitm ∨ i = .brute) :
    (startOf i s.openEpisode).turnsLeft ≤ 1024 + 1024 + 2 ^ 20 := by
  obtain rfl | rfl := hi <;> simp [State.turnsLeft, State.stepsLeft, startOf, hsched, Seq.stepsLeft, nKeys_eq]

/-- A search issued to an idle core and left alone comes to its report. -/
theorem Inv.search_reports {s : State} {i : Instr} (h : Inv s) (hr : s.ready) (hscript : s.script = [])
    (hsched : s.schedule = []) (hi : i = .mitm ∨ i = .brute) :
    ∃ k v, 0 < k ∧ k ≤ 1 + (1024 + 1024 + 2 ^ 20) ∧ runs k (s.withFetchWord 8 (encode i).toNat) = .next v ∧
      SearchCommitted s.tables s.regs v := by
  obtain ⟨-, hfetched, -⟩ := stepRunsTheWrittenCommand
  have hexec := exec_search_of_ready hi hr
  have hscript' : (startOf i s.openEpisode).script = [] := by obtain rfl | rfl := hi <;> exact hscript
  obtain ⟨k, v, hk, hv, hdone⟩ := (h.of_exec hexec).search_ends hi (searchUnderWay_startOf s hi) hscript'
  have hturns := turnsLeft_startOf_search hsched hi
  refine ⟨k + 1, v, k.succ_pos, by omega, ?_, hdone⟩
  rw [runs_succ ((hfetched s i hr).trans hexec), hv]

/-- Settles O55: a search left alone commits its report, and the commit writes FK1 and FK2 alone. -/
theorem searchesReportTheLeastVerifiedPair : Obligations.SearchesReportTheLeastVerifiedPair := by
  intro s i h hr hscript hsched hi
  exact h.search_reports hr hscript hsched hi

/-- Settles O56: both searches come to a report on the same data, and there is one report only. -/
theorem mitmAndBruteAgree : Obligations.MitmAndBruteAgree := by
  intro s h hr hscript hsched
  obtain ⟨k, v, hpos, -, hv, hready, hdone, -, -, -, hreport⟩ := h.search_reports hr hscript hsched (.inl rfl)
  obtain ⟨k', v', hpos', -, hv', hready', hdone', -, -, -, hreport'⟩ := h.search_reports hr hscript hsched (.inr rfl)
  obtain ⟨hfound, hfk1, hfk2⟩ := hreport.unique hreport'
  exact ⟨k, k', v, v', hpos, hpos', hv, hv', hready, hready', hdone, hdone', hfound, hfk1, hfk2, hreport, hreport',
    fun _ _ hmade => hreport.found_of_verified (verified_of_makes_pairs hmade)⟩

end Sys2Proof.Machine
end

section
/-! The single steps of MITM and BRUTE (45_key_recovery.md R143 to R145, R148, R150, R152), and what the two commands
leave alone. -/

namespace Sys2Proof.Machine

/-- Settles O15: each direction of the cipher undoes the other under the second key. -/
theorem candidateIffPivotReencrypts : Obligations.CandidateIffPivotReencrypts :=
  fun _ p c k1 k2 h => cipherE_eq_cipherD_iff h p c k1 k2

/-- A search in execution takes its next sequencer step (10_state.md R34). -/
theorem exec_search_of_executing {s : State} {i : Instr} (hi : i = .mitm ∨ i = .brute) {ph : Phase} {a b n : Nat}
    (h : s.executing i ph a b n) : exec i s = .next (advanceOf i s) := by
  obtain ⟨hseq, hw⟩ := h
  have hp : s.inProgress i = true := by simp [State.inProgress_run hseq]
  obtain rfl | rfl := hi <;> exact exec_advance hp rfl nofun nofun hw

/-! ### Fill steps (R143, R144) -/

/-- A step that stores a block and moves the sequencer: the block reads back, and every other block is as before. -/
theorem blockAt_store_and_move (s : State) (sp : Space) (k : Nat) (b : Block) (q : Seq) :
    ({ s.storeBlock sp k b with seq := q } : State).blockAt sp k = b ∧
      SameBlocksBut (some (sp, k)) s { s.storeBlock sp k b with seq := q } := by
  refine ⟨s.blockAt_storeBlock_same sp k b, fun sp' k' hne => s.blockAt_storeBlock_other b ?_⟩
  by_contra! hsame
  exact hne (by rw [hsame.1, hsame.2])

theorem fillForward_eq {k : Nat} (hk : k < 1024) (j n : Nat) (s : State) :
    fillForward k j n s = { s.storeBlock .fwd k (cipherE s.tables s.regs.p.r1 (keyOf k)) with
      seq := if k = 1023 then .run .mitm .fillB 1024 0 n else .run .mitm .fillF (k + 1) j n } := by
  rw [fillForward]
  split
  · next hnext => rw [nKeys_eq] at hnext; rw [if_neg (by omega)]; rfl
  · next hlast =>
    obtain rfl : k = 1023 := by rw [nKeys_eq] at hlast; omega
    rfl

theorem fillBackward_eq {k : Nat} (hk : k < 1024) (i n : Nat) (s : State) :
    fillBackward i k n s = { s.storeBlock .bwd k (cipherD s.tables s.regs.c.r1 (keyOf k)) with
      seq := if k = 1023 then .run .mitm .scan 0 0 n else .run .mitm .fillB i (k + 1) n } := by
  rw [fillBackward]
  split
  · next hnext => rw [nKeys_eq] at hnext; rw [if_neg (by omega)]; rfl
  · next hlast =>
    obtain rfl : k = 1023 := by rw [nKeys_eq] at hlast; omega
    rfl

/-- Settles O22: a fill step is a store at the counter and a move of the sequencer. -/
theorem mitmFillsForwardAndBackward : Obligations.MitmFillsForwardAndBackward := by
  refine ⟨fun s h => exec_search_of_ready (.inl rfl) h, fun s k j n h hk => ?_, fun s i k n h hk => ?_⟩
  · have hstep := (advanceMitm_fillF h.1).trans (fillForward_eq hk j n s)
    obtain ⟨hsame, hother⟩ := blockAt_store_and_move s .fwd k _ _
    exact ⟨_, (exec_search_of_executing (.inl rfl) h).trans (congrArg _ hstep), hsame, hother, rfl⟩
  · have hstep := (advanceMitm_fillB h.1).trans (fillBackward_eq hk i n s)
    obtain ⟨hsame, hother⟩ := blockAt_store_and_move s .bwd k _ _
    exact ⟨_, (exec_search_of_executing (.inl rfl) h).trans (congrArg _ hstep), hsame, hother, rfl⟩

/-! ### SCAN steps (R147, R152) -/

/-- `scanStep_cases` from the side of its cases: the test of the pair and the pair's place name the result. -/
theorem scanStep_results {op : Instr} {hit : State → Nat → Nat → Bool} {i j n : Nat} {s : State} {p : Prop}
    (hhit : hit s i j = true ↔ p) (hi : i < 1024) (hj : j < 1024) :
    (p → (.next (scanStep op hit i j n s) : Result) = .next (s.finish (.keyPair (some (keyOf i, keyOf j))))) ∧
    (¬p → j < 1023 → (.next (scanStep op hit i j n s) : Result) = .next (s.moveTo op .scan i (j + 1) n)) ∧
    (¬p → j = 1023 → i < 1023 →
      (.next (scanStep op hit i j n s) : Result) = .next (s.moveTo op .scan (i + 1) 0 n)) ∧
    (¬p → j = 1023 → i = 1023 → (.next (scanStep op hit i j n s) : Result) = .next (s.finish (.keyPair none))) := by
  have hkeys := nKeys_eq
  rw [← hhit]
  obtain ⟨hmem, h⟩ | ⟨hmiss, hj', h⟩ | ⟨hmiss, hj', hi', h⟩ | ⟨hmiss, hj', hi', h⟩ := scanStep_cases op hit i j n s <;>
    rw [h]
  · exact ⟨fun _ => rfl, fun hno => absurd hmem hno, fun hno => absurd hmem hno, fun hno => absurd hmem hno⟩
  · exact ⟨fun hyes => by simp [hmiss] at hyes, fun _ _ => rfl, by omega, by omega⟩
  · exact ⟨fun hyes => by simp [hmiss] at hyes, by omega, fun _ _ _ => rfl, by omega⟩
  · exact ⟨fun hyes => by simp [hmiss] at hyes, by omega, by omega, fun _ _ _ => rfl⟩

/-- The cross-validation, pair by pair (45_key_recovery.md R141). -/
theorem crossValidated_iff (t : Tables) (r : Regs) (i j : Nat) : crossValidated t r i j = true ↔
    cipherE2 t r.p.r2 (keyOf i) (keyOf j) = r.c.r2 ∧ cipherE2 t r.p.r3 (keyOf i) (keyOf j) = r.c.r3 ∧
    cipherE2 t r.p.r4 (keyOf i) (keyOf j) = r.c.r4 ∧ cipherE2 t r.p.r5 (keyOf i) (keyOf j) = r.c.r5 := by
  simp [crossValidated, PairNo.auxiliary, pairAgrees, PairFile.get]

theorem mitmHit_iff (s : State) (i j : Nat) : mitmHit s i j = true ↔
    s.blockAt .fwd i = s.blockAt .bwd j ∧
    cipherE2 s.tables s.regs.p.r2 (keyOf i) (keyOf j) = s.regs.c.r2 ∧
    cipherE2 s.tables s.regs.p.r3 (keyOf i) (keyOf j) = s.regs.c.r3 ∧
    cipherE2 s.tables s.regs.p.r4 (keyOf i) (keyOf j) = s.regs.c.r4 ∧
    cipherE2 s.tables s.regs.p.r5 (keyOf i) (keyOf j) = s.regs.c.r5 := by
  rw [mitmHit, Bool.and_eq_true, beq_iff_eq, crossValidated_iff]

theorem bruteHit_iff (s : State) (i j : Nat) : bruteHit s i j = true ↔
    cipherE2 s.tables s.regs.p.r1 (keyOf i) (keyOf j) = s.regs.c.r1 ∧
    cipherE2 s.tables s.regs.p.r2 (keyOf i) (keyOf j) = s.regs.c.r2 ∧
    cipherE2 s.tables s.regs.p.r3 (keyOf i) (keyOf j) = s.regs.c.r3 ∧
    cipherE2 s.tables s.regs.p.r4 (keyOf i) (keyOf j) = s.regs.c.r4 ∧
    cipherE2 s.tables s.regs.p.r5 (keyOf i) (keyOf j) = s.regs.c.r5 := by
  rw [bruteHit, verified, Bool.and_eq_true, crossValidated_iff, pairAgrees, beq_iff_eq]
  rfl

/-- Settles O23: MITM's step in SCAN is a step of the scan with MITM's test. -/
theorem mitmScansInLexOrder : Obligations.MitmScansInLexOrder := by
  intro s i j n h hi hj
  rw [exec_search_of_executing (.inl rfl) h, advanceOf, advanceMitm_scan h.1]
  exact scanStep_results (mitmHit_iff s i j) hi hj

/-- Settles O24: BRUTE's step is a step of the scan with BRUTE's test. -/
theorem bruteScansInLexOrder : Obligations.BruteScansInLexOrder := by
  refine ⟨fun s h => exec_search_of_ready (.inr rfl) h, fun s i j n h hi hj => ?_⟩
  rw [exec_search_of_executing (.inr rfl) h, advanceOf, advanceBrute_run h.1]
  exact scanStep_results (bruteHit_iff s i j) hi hj

/-! ### What a search leaves alone (R148, R150) -/

/-- No command that runs on the sequencer changes FAULT, and none but one turned away changes OVR (10_state.md R29,
R31 (d)). -/
theorem exec_sameStickyFlags {i : Instr} {s t : State} (hn : i ≠ .nop) (hc : i ≠ .clr) (h : exec i s = .next t) :
    SameStickyFlags i s t := by
  obtain ⟨-, rfl⟩ | ⟨-, hb, hp, rfl⟩ | ⟨-, hclr, -⟩ | ⟨-, e, -, -, rfl⟩ | ⟨-, -, -, -, -, rfl⟩ |
    ⟨-, -, -, -, -, rfl⟩ := exec_cases h
  · exact ⟨rfl, fun _ => rfl⟩
  · exact ⟨rfl, fun hor => by simp_all⟩
  · exact absurd hclr hc
  · exact ⟨rfl, fun _ => rfl⟩
  · obtain ⟨-, -, -, hfault, hovr, -⟩ := startOf_keeps i s.openEpisode
    exact ⟨hfault, fun _ => hovr⟩
  · obtain ⟨-, -, hfault, hovr, -⟩ := advanceOf_keeps i s
    exact ⟨hfault, fun _ => hovr⟩

/-- What a search leaves alone beside the flags and the outside world. -/
def SearchKeeps (place : Option (Space × Nat)) (s t : State) : Prop :=
  t.regs = { s.regs with fk1 := t.regs.fk1, fk2 := t.regs.fk2 } ∧ t.chain = s.chain ∧ t.ptOld = s.ptOld ∧
    SameBlocksBut place s t

/-- A change of flags, ERRCODE, latch or sequencer is within the frame. -/
theorem SearchKeeps.of_eq {s t : State} (place : Option (Space × Nat)) (hregs : t.regs = s.regs)
    (hchain : t.chain = s.chain) (hold : t.ptOld = s.ptOld) (hmem : ∀ sp, t.mem sp = s.mem sp)
    (hresets : t.resets = s.resets) : SearchKeeps place s t :=
  ⟨by rw [hregs], hchain, hold, .of_mem_eq hmem hresets place⟩

theorem SearchKeeps.of_scanStep (place : Option (Space × Nat)) (op : Instr) (hit : State → Nat → Nat → Bool)
    (i j n : Nat) (s : State) : SearchKeeps place s (scanStep op hit i j n s) := by
  have finish (found : Option (Key × Key)) : SearchKeeps place s (s.finish (.keyPair found)) :=
    ⟨by cases found <;> rfl, rfl, rfl, .of_mem_eq (s.finish_keeps _).2 rfl place⟩
  have move (a b : Nat) : SearchKeeps place s (s.moveTo op .scan a b n) :=
    .of_eq place rfl rfl rfl (fun sp => by cases sp <;> rfl) rfl
  obtain ⟨-, h⟩ | ⟨-, -, h⟩ | ⟨-, -, -, h⟩ | ⟨-, -, -, h⟩ := scanStep_cases op hit i j n s <;> rw [h]
  · exact finish _
  · exact move _ _
  · exact move _ _
  · exact finish _

/-- A store and a move of the sequencer, whose store is the one block that changes. -/
theorem SearchKeeps.store_and_move (s : State) (sp : Space) (k : Nat) (b : Block) (q : Seq) :
    SearchKeeps (some (sp, k)) s { s.storeBlock sp k b with seq := q } :=
  ⟨by simp, by simp, by simp, (blockAt_store_and_move s sp k b q).2⟩

theorem SearchKeeps.of_advanceMitm {s : State} {ph : Phase} {i j n : Nat} (hseq : s.seq = .run .mitm ph i j n) :
    SearchKeeps (storedPlace .mitm s) s (advanceMitm s) := by
  cases ph with
  | fillF =>
    have hplace : storedPlace .mitm s = some (.fwd, i) := by simp only [storedPlace, hseq]
    rw [advanceMitm_fillF hseq, hplace, fillForward]
    split <;> exact .store_and_move ..
  | fillB =>
    have hplace : storedPlace .mitm s = some (.bwd, j) := by simp only [storedPlace, hseq]
    rw [advanceMitm_fillB hseq, hplace, fillBackward]
    split <;> exact .store_and_move ..
  | _ =>
    simp only [advanceMitm, hseq]
    exact .of_scanStep ..

theorem SearchKeeps.of_advanceOf {s : State} {i : Instr} (hi : i = .mitm ∨ i = .brute) (hp : s.inProgress i = true) :
    SearchKeeps (storedPlace i s) s (advanceOf i s) := by
  obtain ⟨ph, a, b, n, hseq⟩ := State.inProgress_cases hp
  obtain rfl | rfl := hi
  · exact .of_advanceMitm hseq
  · rw [advanceOf, advanceBrute_run hseq]
    exact .of_scanStep ..

theorem exec_searchKeeps {s t : State} {i : Instr} (hi : i = .mitm ∨ i = .brute) (h : exec i s = .next t) :
    SearchKeeps (storedPlace i s) s t := by
  obtain ⟨-, rfl⟩ | ⟨-, -, -, rfl⟩ | ⟨-, -, rfl⟩ | ⟨-, e, -, -, rfl⟩ | ⟨-, -, -, -, -, rfl⟩ |
    ⟨hp, -, -, -, -, rfl⟩ := exec_cases h
  case inr.inr.inr.inr.inl =>
    obtain rfl | rfl := hi <;> exact .of_eq _ rfl rfl rfl (fun sp => by cases sp <;> rfl) rfl
  case inr.inr.inr.inr.inr => exact .of_advanceOf hi hp
  all_goals exact .of_eq _ rfl rfl rfl (fun sp => by cases sp <;> rfl) rfl

/-- Settles O34: the frame of every step of a search, the sticky flags and the outside world beside it. -/
theorem searchFrame : Obligations.SearchFrame := by
  intro i s t hi h
  have hsticky : SameStickyFlags i s t := by obtain rfl | rfl := hi <;> exact exec_sameStickyFlags nofun nofun h
  obtain ⟨hregs, hchain, hold, hblocks⟩ := exec_searchKeeps hi h
  exact ⟨hregs, hsticky, exec_sameSurroundings h, hchain, hold, hblocks⟩

end Sys2Proof.Machine
end

section
/-! The single steps of CBCD (46_cbc.md R161, R162, R164): its length check, one block, the commit, and what the command
leaves alone; and the scope of an error in its input (R165). -/

namespace Sys2Proof.Machine

/-! ### Acceptance and rejection (R161) -/

/-- CBCD issued to a core that is idle and not halted is accepted or rejected by its length check. -/
theorem exec_cbcd_of_ready {s : State} (hr : s.ready) :
    exec .cbcd s = .next (s.accept (lengthCheck s) startCbcd) := by
  obtain ⟨hseq, hb, hf⟩ := hr
  exact runCommand_issue _ _ _ hseq hb hf

section
variable {s : State}

theorem lengthCheck_of_ragged (h : s.regs.ctlen.toNat % 8 ≠ 0) : lengthCheck s = .badLength :=
  if_pos h

theorem lengthCheck_of_too_long (hwhole : s.regs.ctlen.toNat % 8 = 0) (hlong : 8 * 256 < s.regs.ctlen.toNat) :
    lengthCheck s = .lengthRange := by
  rw [lengthCheck, if_neg (not_not_intro hwhole), if_pos hlong]

theorem lengthCheck_of_legal (hwhole : s.regs.ctlen.toNat % 8 = 0) (hfits : s.regs.ctlen.toNat ≤ 8 * 256) :
    lengthCheck s = .none := by
  rw [lengthCheck, if_neg (not_not_intro hwhole), if_neg (Nat.not_lt.2 hfits)]

end

/-- CBCD with a legal length is accepted. -/
theorem exec_cbcd_of_legal {s : State} (hr : s.ready) (hwhole : s.regs.ctlen.toNat % 8 = 0)
    (hfits : s.regs.ctlen.toNat ≤ 8 * 256) : exec .cbcd s = .next (startCbcd s.openEpisode) := by
  rw [exec_cbcd_of_ready hr, lengthCheck_of_legal hwhole hfits, State.accept_none]

/-! ### One block (R162) -/

/-- CBCD in execution takes its next sequencer step (10_state.md R34). -/
theorem exec_cbcd_of_executing {s : State} {ph : Phase} {i j n : Nat} (h : s.executing .cbcd ph i j n) :
    exec .cbcd s = .next (advanceCbcd s) := by
  obtain ⟨hseq, hw⟩ := h
  exact runCommand_advance _ _ _ (by simp [State.inProgress_run hseq]) hw

/-- The block of the loop reads back, and every other block is as before. -/
theorem cbcBlock_blockAt (n : Nat) (s : State) :
    (cbcBlock n s).blockAt .ptbuf n =
        cipherD2 s.tables (s.blockAt .ctbuf n) s.regs.key1 s.regs.key2 ^^^ s.chain ∧
      SameBlocksBut (some (.ptbuf, n)) s (cbcBlock n s) :=
  blockAt_store_and_move s .ptbuf n _ s.seq

/-- What follows a store without touching a memory leaves the store's frame. -/
theorem SameBlocksBut.trans_mem_eq {s t u : State} {place : Option (Space × Nat)} (h : SameBlocksBut place s t)
    (hmem : ∀ sp, u.mem sp = t.mem sp) (hresets : u.resets = t.resets) : SameBlocksBut place s u :=
  fun sp k hne => (State.blockAt_congr (hmem sp) hresets k).trans (h sp k hne)

/-- Settles O26: the three answers of the length check, and the step of an empty stream, which only commits. -/
theorem cbcdLengthCheck : Obligations.CbcdLengthCheck := by
  refine ⟨fun s hr => ⟨fun hragged => ?_, fun hwhole hlong => ?_, exec_cbcd_of_legal hr⟩, fun s i j n h hempty => ?_⟩
  · rw [exec_cbcd_of_ready hr, lengthCheck_of_ragged hragged]
    rfl
  · rw [exec_cbcd_of_ready hr, lengthCheck_of_too_long hwhole hlong]
    rfl
  · have hcount : s.regs.blockCount = 0 := hempty
    rw [exec_cbcd_of_executing h]
    obtain ⟨hnext, -⟩ | ⟨hlast, -⟩ | ⟨-, ht⟩ := advanceCbcd_cases h.1
    · omega
    · omega
    · rw [ht]
      rfl

/-- Settles O25: the step stores the block of the loop, then moves on or commits. -/
theorem cbcdDecryptsOneBlock : Obligations.CbcdDecryptsOneBlock := by
  intro s i j n h hn
  have hcount : s.regs.blockCount = s.regs.ctlen.toNat / 8 := rfl
  obtain ⟨hblock, hothers⟩ := cbcBlock_blockAt n s
  refine ⟨advanceCbcd s, exec_cbcd_of_executing h, ?_⟩
  obtain ⟨hnext, ht⟩ | ⟨hlast, ht⟩ | ⟨hpast, -⟩ := advanceCbcd_cases h.1
  · rw [ht]
    exact ⟨hblock, hothers.trans_mem_eq (fun _ => rfl) rfl, fun _ => rfl, by omega⟩
  · rw [ht]
    exact ⟨hblock, hothers.trans_mem_eq (State.finish_keeps _ _).2 rfl, by omega, fun _ => rfl⟩
  · omega

/-! ### What CBCD leaves alone (R164) -/

/-- A step of CBCD changes no register, and stores at most the block at its counter. -/
theorem advanceCbcd_keeps {s : State} (hp : s.inProgress .cbcd = true) :
    (advanceCbcd s).regs = s.regs ∧ SameBlocksBut (storedPlace .cbcd s) s (advanceCbcd s) := by
  obtain ⟨ph, i, j, n, hseq⟩ := State.inProgress_cases hp
  have hplace (hn : n < s.regs.blockCount) : storedPlace .cbcd s = some (.ptbuf, n) := by
    simp only [storedPlace, hseq, if_pos hn]
  obtain ⟨-, hothers⟩ := cbcBlock_blockAt n s
  obtain ⟨hnext, ht⟩ | ⟨hlast, ht⟩ | ⟨-, ht⟩ := advanceCbcd_cases hseq
  · rw [ht, hplace (by omega)]
    exact ⟨rfl, hothers.trans_mem_eq (fun _ => rfl) rfl⟩
  · rw [ht, hplace (by omega)]
    exact ⟨rfl, hothers.trans_mem_eq (State.finish_keeps _ _).2 rfl⟩
  · rw [ht]
    exact ⟨rfl, .of_mem_eq (s.finish_keeps _).2 rfl _⟩

/-- Settles O35: turned away, rejected or accepted, CBCD touches no memory; its steps store at the counter. -/
theorem cbcdFrame : Obligations.CbcdFrame := by
  intro s t h
  have hkeeps : t.regs = s.regs ∧ SameBlocksBut (storedPlace .cbcd s) s t := by
    obtain ⟨hp, -, rfl⟩ | ⟨-, -, rfl⟩ | ⟨-, -, -, rfl⟩ | ⟨-, -, -, -, rfl⟩ | ⟨-, -, -, -, rfl⟩ := runCommand_cases h
    · exact advanceCbcd_keeps hp
    all_goals exact ⟨rfl, .of_mem_eq (fun sp => by cases sp <;> rfl) rfl _⟩
  obtain ⟨hregs, hblocks⟩ := hkeeps
  exact ⟨hregs, exec_sameStickyFlags nofun nofun h, exec_sameSurroundings h, hblocks⟩

/-! ### Error propagation (R165) -/

/-- A plaintext block depends on its ciphertext block and the one before it, beside TABLES and the registers. -/
theorem plainBlock_congr {s t : State} {m : Nat} (htables : t.tables = s.tables) (hregs : t.regs = s.regs)
    (hblock : t.blockAt .ctbuf m = s.blockAt .ctbuf m)
    (hprev : m ≠ 0 → t.blockAt .ctbuf (m - 1) = s.blockAt .ctbuf (m - 1)) : plainBlock t m = plainBlock s m := by
  rw [plainBlock, plainBlock, htables, hregs, hblock]
  split
  · rfl
  · next hm => rw [hprev hm]

theorem plainBlock_succ (s : State) (m : Nat) : plainBlock s (m + 1) =
    cipherD2 s.tables (s.blockAt .ctbuf (m + 1)) s.regs.key1 s.regs.key2 ^^^ s.blockAt .ctbuf m := rfl

/-- The chaining value can be exchanged after the fact. -/
theorem xor_xor_exchange (d a b : Block) : d ^^^ a ^^^ (a ^^^ b) = d ^^^ b := by
  rw [BitVec.xor_assoc, xor_xor_cancel]

/-- Two ciphertext blocks with one decryption are one block (44_double_cipher.md R132). -/
theorem cipherD2_injective {t : Tables} (h : t.wf = true) (k1 k2 : Key) :
    Function.Injective (fun b => cipherD2 t b k1 k2) :=
  Function.LeftInverse.injective (g := fun b => cipherE2 t b k1 k2) fun b => cipherE2_cipherD2 h b k1 k2

/-- Settles O58: D2 is injective, which changes block `i`; the chaining changes block `i + 1`, as it does block 0 for
the IV; every other block depends on neither. -/
theorem cbcErrorPropagation : Obligations.CbcErrorPropagation := by
  refine ⟨fun s t i hw htables hregs hsame hchanged => ⟨fun heq => hchanged ?_, ?_, fun m hm hm' => ?_⟩,
    fun s v => ⟨(xor_xor_exchange _ s.regs.iv v).symm, fun m hm => ?_⟩⟩
  · have hprev : (if i = 0 then s.regs.iv else t.blockAt .ctbuf (i - 1)) =
        if i = 0 then s.regs.iv else s.blockAt .ctbuf (i - 1) := by
      split
      · rfl
      · exact hsame _ (by omega)
    rw [plainBlock, plainBlock, htables, hregs, hprev] at heq
    exact cipherD2_injective hw _ _ ((BitVec.xor_left_inj _).1 heq)
  · rw [plainBlock_succ, plainBlock_succ, xor_xor_exchange, htables, hregs, hsame (i + 1) (by omega)]
  · exact plainBlock_congr htables hregs (hsame m hm) fun hpos => hsame _ (by omega)
  · rw [plainBlock, plainBlock, if_neg hm, if_neg hm]
    rfl

end Sys2Proof.Machine
end

section
/-! CBCD from its acceptance to its commit (46_cbc.md R162, R163): the invariant says what the blocks done so far are,
so a run has only to keep what CBCD reads. -/

namespace Sys2Proof.Machine

/-- A CBCD issued in `s` is at work in `u`: what it reads is as in `s`, and the model's snapshot is of the PTBUF of
`s`. -/
def CbcdOf (s u : State) : Prop :=
  u.tables = s.tables ∧ u.regs = s.regs ∧ u.ctbuf = s.ctbuf ∧ u.ptOld = s.ptbuf ∧ u.resets = s.resets

/-- A CBCD issued in `s` has block `n` before it in `u`, and no host beside it. -/
def CbcdUnderWay (s : State) (n : Nat) (u : State) : Prop :=
  u.seq = .run .cbcd .blocks 0 0 n ∧ u.script = [] ∧ CbcdOf s u

/-- A CBCD issued in `s` has committed in `u` (46_cbc.md R163, R164). -/
def CbcdCommitted (s u : State) : Prop :=
  u.ready ∧ u.status.done = true ∧ u.status.err = false ∧ u.status.found = false ∧ u.errcode = .none ∧
    u.regs = s.regs ∧ (∀ m, u.blockAt .ctbuf m = s.blockAt .ctbuf m) ∧
    (∀ m < s.regs.blockCount, u.blockAt .ptbuf m = plainBlock s m) ∧
    (∀ m, s.regs.blockCount ≤ m → u.blockAt .ptbuf m = s.blockAt .ptbuf m)

/-- The commit once every block is done. -/
theorem CbcdOf.committed_finish {s u : State} {i j : Nat} (hu : CbcdOf s u) (hflags : FlagsInv u)
    (hb : u.status.busy = true) (hprogress : progress u .cbcd .blocks i j s.regs.blockCount) :
    CbcdCommitted s (u.finish .nothing) := by
  obtain ⟨htables, hregs, hct, hold, hresets⟩ := hu
  obtain ⟨-, hfound, herr, hcode⟩ := hflags.busyClean hb
  obtain ⟨-, hdone, hrest⟩ := hprogress
  have hctbuf (m : Nat) : u.blockAt .ctbuf m = s.blockAt .ctbuf m := State.blockAt_congr (sp := .ctbuf) hct hresets m
  refine ⟨⟨rfl, rfl, hflags.no_fault_of_busy hb⟩, rfl, herr, hfound, hcode, hregs, hctbuf, fun m hm => ?_,
    fun m hm => ?_⟩
  · have hplain : (u.finish .nothing).blockAt .ptbuf m = plainBlock u m := congrArg (Option.getD · _) (hdone m hm)
    rw [hplain]
    exact plainBlock_congr htables hregs (hctbuf m) fun _ => hctbuf (m - 1)
  · have hread : Memory.read u.ptbuf m = Memory.read s.ptbuf m := by rw [hrest m hm, hold]
    have hkept : (Memory.read u.ptbuf m).getD (Config.unwrittenBlock u.resets .ptbuf m) = s.blockAt .ptbuf m := by
      rw [hread, hresets]
      rfl
    exact hkept

section
variable {s u : State} {n : Nat} (h : Inv u) (hu : CbcdUnderWay s n u)
include h hu

/-- A sequencer step of CBCD goes on to the next block or commits. -/
theorem Inv.cbcd_advance : (n + 1 < s.regs.blockCount ∧ CbcdUnderWay s (n + 1) (advanceCbcd u)) ∨
    CbcdCommitted s (advanceCbcd u) := by
  obtain ⟨hseq, hscript, hof⟩ := hu
  have ⟨_, hregs, _⟩ := hof
  have hcount : u.regs.blockCount = s.regs.blockCount := by rw [hregs]
  have hb := h.busy_of_run hseq
  obtain ⟨hplace, hprogress⟩ := (sequencerInv_run_iff hseq).1 h.sequencer
  obtain ⟨hnext, ht⟩ | ⟨hlast, ht⟩ | ⟨hpast, ht⟩ := advanceCbcd_cases hseq <;> rw [ht]
  · exact .inl ⟨hcount ▸ hnext, rfl, hscript, hof⟩
  · obtain ⟨-, hprogress'⟩ := h.cbcBlock_progress hseq (by omega)
    rw [hlast, hcount] at hprogress'
    have hof' : CbcdOf s (cbcBlock n u) := hof
    exact .inr (hof'.committed_finish (h.flags.congr rfl rfl rfl rfl) hb hprogress')
  · obtain ⟨-, -, -, -, hn⟩ := hplace
    obtain rfl : n = s.regs.blockCount := by omega
    exact .inr (hof.committed_finish h.flags hb hprogress)

/-- With no host beside it, the core takes the step; one entry of the schedule is used up. -/
theorem Inv.step_cbcd : step u = .next (advanceCbcd { u with schedule := u.schedule.tail }) := by
  obtain ⟨hseq, hscript, -⟩ := hu
  obtain ⟨hf, hw⟩ := h.no_fault_of_run hseq
  rw [step_of_core hseq (nextMover_core_of (by rw [hseq]; rfl) hf (.inr hscript))]
  exact exec_cbcd_of_executing ⟨hseq, hw⟩

end

/-- A CBCD left alone commits, after a step for each block still before it, or after one for the empty stream. -/
theorem Inv.cbcd_ends {s u : State} {n : Nat} (h : Inv u) (hu : CbcdUnderWay s n u) :
    ∃ k v, k ≤ max 1 (s.regs.blockCount - n) ∧ runs k u = .next v ∧ CbcdCommitted s v := by
  induction hd : s.regs.blockCount - n using Nat.strong_induction_on generalizing n u with
  | _ d ih =>
    have hstep := h.step_cbcd hu
    obtain ⟨hnext, hgoing⟩ | hdone := (h.withHostData u.script u.schedule.tail u.reads).cbcd_advance hu
    · obtain ⟨k, v, hk, hv, hdone⟩ := ih _ (by omega) (h.of_step hstep) hgoing rfl
      exact ⟨k + 1, v, by omega, (runs_succ hstep k).trans hv, hdone⟩
    · exact ⟨1, _, le_max_left .., runs_succ hstep 0, hdone⟩

/-- Settles O57: an accepted CBCD has block 0 before it, and what its commit leaves is what the statement names. -/
theorem cbcdDecryptsTheStream : Obligations.CbcdDecryptsTheStream := by
  intro s h hr hscript _ hwhole hfits
  obtain ⟨-, hfetched, -⟩ := stepRunsTheWrittenCommand
  have hcount : s.regs.blockCount ≤ 256 := Nat.div_le_of_le_mul hfits
  have hexec := exec_cbcd_of_legal hr hwhole hfits
  have hstart : CbcdUnderWay s 0 (startCbcd s.openEpisode) := ⟨rfl, hscript, rfl, rfl, rfl, rfl, rfl⟩
  obtain ⟨k, v, hk, hv, hdone⟩ := (h.of_exec hexec).cbcd_ends hstart
  exact ⟨k + 1, v, k.succ_pos, by omega, (runs_succ ((hfetched s .cbcd hr).trans hexec) k).trans hv, hdone⟩

end Sys2Proof.Machine
end

section
/-! The control commands NOP and CLR (47_control.md R170, R171): each is the gate of a host write with one action behind
it, so a core refuses them as it refuses any write. -/

namespace Sys2Proof.Machine

/-- NOP does nothing, or its write is lost on a busy core. -/
theorem exec_nop_cases {s t : State} (h : exec .nop s = .next t) :
    t = s ∨ (s.status.busy = true ∧ t = s.noteOverrun) := by
  obtain ⟨-, rfl⟩ | ⟨-, hb, rfl⟩ | ⟨-, -, h⟩ := State.gated_cases (exec_nop s ▸ h)
  · exact .inl rfl
  · exact .inr ⟨hb, rfl⟩
  · cases h
    exact .inl rfl

/-- CLR is ignored by a halted core, lost on a busy one, and otherwise clears the flags. -/
theorem exec_clr_cases {s t : State} (h : exec .clr s = .next t) :
    t = s ∨ t = s.noteOverrun ∨ t = s.acknowledge := by
  obtain ⟨-, rfl⟩ | ⟨-, -, rfl⟩ | ⟨-, -, h⟩ := State.gated_cases (exec_clr s ▸ h)
  · exact .inl rfl
  · exact .inr (.inl rfl)
  · cases h
    exact .inr (.inr rfl)

/-- Settles O36: the updates the two commands can make write STATUS and ERRCODE alone, and NOP's writes OVR alone. -/
theorem controlCommandsFrame : Obligations.ControlCommandsFrame := by
  refine ⟨?_, fun s t h => ?_⟩
  · rintro i s t (rfl | rfl) h
    · obtain rfl | ⟨-, rfl⟩ := exec_nop_cases h <;> exact ⟨rfl, rfl, rfl⟩
    · obtain rfl | rfl | rfl := exec_clr_cases h <;> exact ⟨rfl, rfl, rfl⟩
  · obtain rfl | ⟨hb, rfl⟩ := exec_nop_cases h
    · exact ⟨rfl, fun _ => rfl⟩
    · exact ⟨rfl, fun hidle => absurd hb (by simp [hidle])⟩

/-- Settles O27: the gate's two refusals, and the action behind it, which changes nothing. -/
theorem nopChangesNothing : Obligations.NopChangesNothing :=
  ⟨rfl, fun s => exec_nop s ▸ ⟨State.gated_halted _, State.gated_busy _, State.gated_ready _⟩⟩

/-- Settles O28: the gate's two refusals, and the action behind it, which clears the flags and ERRCODE. -/
theorem clrClearsFlags : Obligations.ClrClearsFlags :=
  fun s => exec_clr s ▸ ⟨State.gated_halted _, State.gated_busy _, State.gated_ready _⟩

end Sys2Proof.Machine
end

section
/-! The end of an episode: by itself, within the turns left, or by the reset event (70_reset_and_hazards.md R210,
R218). -/

namespace Sys2Proof.Machine

/-! ### The reset event (R210) -/

theorem step_of_reset {s : State} {rest : List Action} (hm : nextMover s = .host) (hs : s.script = .reset :: rest) :
    step s = .next (s.takeTurn.applyReset.withScript rest) := by
  simp only [step_of_host hm, hostTurn, State.takeTurn_script, hs]

/-- The blocks that a running CBCD had written survive a reset, whose memory holds no others (log 15). -/
theorem State.blockAt_applyReset_of_cbcd {s : State} {ph : Phase} {i j n k : Nat} {b : Block}
    (hseq : s.seq = .run .cbcd ph i j n) (hk : k < n) (hb : Memory.read s.ptbuf k = some b) :
    s.applyReset.blockAt .ptbuf k = b := by
  have hread : Memory.read s.applyReset.ptbuf k = some b := by
    simp only [State.applyReset, State.ptbufAfterReset, hseq]
    rw [Memory.read_filter_lt, if_pos hk, hb]
  exact congrArg (Option.getD · _) hread

/-- Settles O51: the step is the reset event, and `State.applyReset_fields` says what it leaves. -/
theorem resetEventEndsTheEpisode : Obligations.ResetEventEndsTheEpisode := by
  intro s rest hm hs
  obtain ⟨htables, hregs, hseq, hstatus, herr, -⟩ := s.takeTurn.applyReset_fields
  rw [State.takeTurn_tables] at htables hstatus herr
  refine ⟨_, step_of_reset hm hs, hseq, htables, rfl, hstatus, herr, hregs, fun ph i j n k b hrun hk hb => ?_⟩
  exact State.blockAt_applyReset_of_cbcd (s.takeTurn_seq.trans hrun) hk (s.takeTurn_ptbuf ▸ hb)

/-! ### The bound on an episode (R218) -/

theorem State.stepsLeft_idle {s : State} (hseq : s.seq = .idle) : s.stepsLeft = 0 := by
  rw [State.stepsLeft, hseq, Seq.stepsLeft]

section
variable {s u : State} (h : Inv s) (hrun : s.seq.running = true) (hu : step s = .next u)
include h hrun hu

/-- The host's turn while a command runs adds no sequencer step: the core stands still or is reset. -/
theorem Inv.stepsLeft_host_le (hm : nextMover s = .host) :
    u.schedule = s.schedule.tail ∧ u.stepsLeft ≤ s.stepsLeft := by
  cases hreset : resetNext s with
  | false =>
    obtain ⟨ovr, script, reads, -, hstep⟩ := h.step_host hrun hreset hm
    obtain rfl := Host.Outcome.next.inj (hstep.symm.trans hu)
    exact ⟨rfl, Nat.le_refl _⟩
  | true =>
    obtain ⟨hm', -⟩ | ⟨-, _, _, _, -, hno, -⟩ | ⟨-, -, hno, -⟩ | ⟨-, -, -, rest, -, rfl⟩ := step_inversion hu
    · exact absurd hm' (by simp [hm])
    · exact absurd hno (by simp [hreset])
    · exact absurd hno (by simp [hreset])
    · obtain ⟨-, -, hidle, -⟩ := State.applyReset_fields { s with schedule := s.takeTurn.schedule }
      have hturn : s.takeTurn.schedule = s.schedule.tail := by simp [State.takeTurn, hrun]
      exact ⟨hturn, (State.stepsLeft_idle hidle).trans_le (Nat.zero_le _)⟩

/-- Every step of a running command, the host's and a reset among them, leaves a turn fewer. -/
theorem Inv.turnsLeft_step_lt : u.turnsLeft < s.turnsLeft := by
  cases hseq : s.seq with
  | idle => rw [hseq] at hrun; cases hrun
  | run op ph i j n =>
    cases hm : nextMover s with
    | core =>
      obtain rfl := Host.Outcome.next.inj ((h.step_core hseq hm).symm.trans hu)
      exact Nat.add_lt_add_of_le_of_lt (s.schedule.tail_sublist.count_le _) (h.stepsLeft_advanceOf_lt hseq)
    | host =>
      have hcount := schedule_count_of_host hrun (h.no_fault_of_run hseq).1 hm
      obtain ⟨hschedule, hsteps⟩ := h.stepsLeft_host_le hrun hu hm
      rw [State.turnsLeft, State.turnsLeft, hschedule]
      omega

end

/-- The core comes to rest within the turns left. -/
theorem Inv.comes_to_rest {s : State} (h : Inv s) :
    ∃ k t, k ≤ s.turnsLeft ∧ runs k s = .next t ∧ t.seq = .idle := by
  induction hN : s.turnsLeft using Nat.strong_induction_on generalizing s with
  | _ N ih =>
    cases hseq : s.seq with
    | idle => exact ⟨0, s, Nat.zero_le _, rfl, hseq⟩
    | run op ph i j n =>
      obtain ⟨u, hu⟩ := step_total h.flags.wf_of_no_fault
      have hlt := h.turnsLeft_step_lt (by rw [hseq]; rfl) hu
      obtain ⟨k, t, hk, ht, hidle⟩ := ih _ (hN ▸ hlt) (h.of_step hu) rfl
      exact ⟨k + 1, t, by omega, (runs_succ hu k).trans ht, hidle⟩

/-- MITM takes the most steps: two fills and a whole scan (45_key_recovery.md R152). -/
theorem Inv.stepsLeft_le {s : State} (h : Inv s) : s.stepsLeft ≤ 1024 + 1024 + 2 ^ 20 := by
  have hkeys := nKeys_eq
  cases hseq : s.seq with
  | idle => rw [State.stepsLeft_idle hseq]; exact Nat.zero_le _
  | run op ph i j n =>
    obtain ⟨hplace, -⟩ := (sequencerInv_run_iff hseq).1 h.sequencer
    rw [State.stepsLeft_run hseq]
    cases ph with
    | exec => simp [Seq.stepsLeft]
    | fillF => simp only [Seq.stepsLeft, hkeys]; omega
    | fillB => simp only [Seq.stepsLeft, hkeys]; omega
    | scan => simp only [Seq.stepsLeft, hkeys]; omega
    | blocks =>
      have hblocks : s.regs.blockCount < 2 ^ 16 := by
        have := s.regs.ctlen.isLt
        unfold Regs.blockCount
        omega
      simp only [Seq.stepsLeft]
      omega

/-- Settles O54: the turns left are the schedule's host turns and at most so many sequencer steps. -/
theorem everyEpisodeEnds : Obligations.EveryEpisodeEnds := by
  intro s h _
  obtain ⟨k, t, hk, ht, hidle⟩ := h.comes_to_rest
  exact ⟨k, t, hk.trans (Nat.add_le_add_left h.stepsLeft_le _), ht, hidle⟩

end Sys2Proof.Machine
end

section
/-! How a step changes FAULT, OVR and ERR: a reset alone changes FAULT, CLR and a reset alone clear OVR, and a rejected
command alone sets ERR (60_exceptions.md R184, R186, R187, R189). -/

namespace Sys2Proof.Machine

/-! ### The flags under a command -/

/-- No command changes FAULT (60_exceptions.md R186). -/
theorem exec_fault {i : Instr} {s t : State} (h : exec i s = .next t) : t.status.fault = s.status.fault := by
  by_cases hcontrol : i = .nop ∨ i = .clr
  · exact (controlCommandsFrame.1 i s t hcontrol h).2.2
  · obtain ⟨hn, hc⟩ := not_or.1 hcontrol
    exact (exec_sameStickyFlags hn hc h).1

/-- CLR alone clears OVR, and only where the core looks at it (60_exceptions.md R189). -/
theorem exec_clears_ovr {i : Instr} {s t : State} (h : exec i s = .next t) (hs : s.status.ovr = true)
    (ht : t.status.ovr = false) : s.lookingAt ∧ i = .clr := by
  obtain ⟨-, rfl⟩ | ⟨-, -, -, rfl⟩ | ⟨hlook, hclr, -⟩ | ⟨-, e, -, -, rfl⟩ | ⟨-, -, -, -, -, rfl⟩ |
    ⟨-, -, -, -, -, rfl⟩ := exec_cases h
  · exact absurd ht (by simp [hs])
  · exact absurd ht (by simp)
  · exact ⟨hlook, hclr⟩
  · exact absurd ht (by simp [hs])
  · obtain ⟨-, -, -, -, hovr, -⟩ := startOf_keeps i s.openEpisode
    exact absurd ht (by simp [hovr, hs])
  · obtain ⟨-, -, -, hovr, -⟩ := advanceOf_keeps i s
    exact absurd ht (by simp [hovr, hs])

/-- `t` is what a core that looks at a command leaves of `s` when it rejects it (60_exceptions.md R184). -/
def RejectedFrom (s t : State) : Prop := s.lookingAt ∧ ∃ e, e ≠ .none ∧ t = s.openEpisode.raiseError e

/-- A command raises an error only by being rejected. -/
theorem exec_raises_error {i : Instr} {s t : State} (h : exec i s = .next t) (hs : s.status.err = false)
    (ht : t.status.err = true) : RejectedFrom s t := by
  obtain ⟨-, rfl⟩ | ⟨-, -, -, rfl⟩ | ⟨-, -, rfl⟩ | ⟨hlook, e, he, -, rfl⟩ | ⟨-, -, -, -, -, rfl⟩ |
    ⟨-, -, -, -, -, rfl⟩ := exec_cases h
  · exact absurd ht (by simp [hs])
  · exact absurd ht (by simp [hs])
  · exact absurd ht (by simp)
  · exact ⟨hlook, e, he, rfl⟩
  · obtain ⟨-, -, -, -, -, herr, -⟩ := startOf_keeps i s.openEpisode
    exact absurd ht (by simp [herr])
  · obtain ⟨-, -, -, -, herr, -⟩ := advanceOf_keeps i s
    exact absurd ht (by simp [herr, hs])

/-! ### The flags under a host write -/

/-- A host write changes STATUS by the overrun of a busy core, or as the command whose word it writes to CMD. -/
theorem hostWrite_status_cases {a : HostAddr} {v : HostWord} {s t : State} (h : hostWrite a v s = .next t) :
    (t.status = s.status ∧ t.tables = s.tables) ∨ (s.status.busy = true ∧ t = s.noteOverrun) ∨
    (s.lookingAt ∧ a = Reg.cmd.addr ∧ issueWord (v.setWidth 8) s = .next t) := by
  obtain ⟨-, rfl⟩ | ⟨-, hb, rfl⟩ | ⟨hf, hb, ⟨ha, hi⟩ | ⟨r, -, -, rfl⟩ | ⟨k, -, rfl⟩ | ⟨k, -, rfl⟩ | ⟨-, rfl⟩⟩ :=
    hostWrite_cases h
  · exact .inl ⟨rfl, rfl⟩
  · exact .inr (.inl ⟨hb, rfl⟩)
  · exact .inr (.inr ⟨⟨hf, hb⟩, (addr_of_target_reg ha).symm, hi⟩)
  all_goals exact .inl ⟨rfl, rfl⟩

theorem hostWrite_tables_fault {a : HostAddr} {v : HostWord} {s t : State} (h : hostWrite a v s = .next t) :
    t.tables = s.tables ∧ t.status.fault = s.status.fault := by
  obtain ⟨hstatus, htables⟩ | ⟨-, rfl⟩ | ⟨-, -, hi⟩ := hostWrite_status_cases h
  · exact ⟨htables, congrArg Status.fault hstatus⟩
  · exact ⟨rfl, rfl⟩
  · obtain ⟨i, -, hexec⟩ | ⟨e, -, rfl⟩ := issueWord_cases hi
    · obtain ⟨htables, -⟩ := exec_sameSurroundings hexec
      exact ⟨htables, exec_fault hexec⟩
    · exact ⟨rfl, rfl⟩

theorem hostWrite_clears_ovr {a : HostAddr} {v : HostWord} {s t : State} (h : hostWrite a v s = .next t)
    (hs : s.status.ovr = true) (ht : t.status.ovr = false) :
    s.lookingAt ∧ a = Reg.cmd.addr ∧ v.setWidth 8 = encode .clr := by
  obtain ⟨hstatus, -⟩ | ⟨-, rfl⟩ | ⟨hlook, ha, hi⟩ := hostWrite_status_cases h
  · exact absurd ht (by simp [hstatus, hs])
  · exact absurd ht (by simp)
  · obtain ⟨i, hd, hexec⟩ | ⟨e, -, rfl⟩ := issueWord_cases hi
    · obtain ⟨-, rfl⟩ := exec_clears_ovr hexec hs ht
      exact ⟨hlook, ha, (encode_of_decode hd).symm⟩
    · exact absurd ht (by simp [hs])

theorem hostWrite_raises_error {a : HostAddr} {v : HostWord} {s t : State} (h : hostWrite a v s = .next t)
    (hs : s.status.err = false) (ht : t.status.err = true) : a = Reg.cmd.addr ∧ RejectedFrom s t := by
  obtain ⟨hstatus, -⟩ | ⟨-, rfl⟩ | ⟨hlook, ha, hi⟩ := hostWrite_status_cases h
  · exact absurd ht (by simp [hstatus, hs])
  · exact absurd ht (by simp [hs])
  · obtain ⟨i, -, hexec⟩ | ⟨e, -, rfl⟩ := issueWord_cases hi
    · exact ⟨ha, exec_raises_error hexec hs ht⟩
    · exact ⟨ha, hlook, .illegalCmd, nofun, rfl⟩

/-! ### The flags over a step -/

theorem step_tables {s t : State} (h : step s = .next t) : t.tables = s.tables := by
  obtain ⟨-, -, op, _, _, _, _, -, hexec⟩ | ⟨-, a, v, rest, -, -, hw⟩ | ⟨-, -, -, ht⟩ | ⟨-, -, -, rest, -, ht⟩ :=
    step_inversion h
  · exact (exec_sameSurroundings hexec).1
  · exact (hostWrite_tables_fault hw).1
  · rw [ht]
  · rw [ht]
    exact (State.applyReset_fields _).1

theorem step_fault {s t : State} (h : step s = .next t) :
    t.status.fault = s.status.fault ∨ (resetNext s = true ∧ t.status.fault = !s.tables.wf) := by
  obtain ⟨-, -, op, _, _, _, _, -, hexec⟩ | ⟨-, a, v, rest, -, -, hw⟩ | ⟨-, -, -, ht⟩ | ⟨-, -, hreset, rest, -, ht⟩ :=
    step_inversion h
  · have hfault := exec_fault hexec
    exact .inl hfault
  · have ⟨_, hfault⟩ := hostWrite_tables_fault hw
    exact .inl hfault
  · exact .inl (by rw [ht])
  · obtain ⟨-, -, -, hstatus, -⟩ := State.applyReset_fields { s with schedule := s.takeTurn.schedule }
    rw [ht]
    exact .inr ⟨hreset, congrArg Status.fault hstatus⟩

/-- Settles O38: neither a command nor a host write touches TABLES or FAULT, and under a well-formed TABLES the
self-check of a reset passes. -/
theorem faultOnlyFromReset : Obligations.FaultOnlyFromReset := by
  refine ⟨fun s t h => ⟨step_tables h, step_fault h⟩, fun s t h hw hf => ?_⟩
  obtain hsame | ⟨-, hcheck⟩ := step_fault h
  · rw [hsame, hf]
  · rw [hcheck, hw]
    rfl

/-! ### OVR and ERR over a step -/

theorem nextMover_of_nextWrite {s : State} {w : HostAddr × HostWord} (h : nextWrite s = some w) :
    nextMover s = .host := by
  unfold nextWrite at h
  split at h
  next hm _ => exact hm
  next hm _ => exact hm
  next => cases h

theorem hostWrite_busy {s : State} (a : HostAddr) (v : HostWord) (hf : s.status.fault = false)
    (hb : s.status.busy = true) : hostWrite a v s = .next s.noteOverrun :=
  State.gated_busy _ hf hb

/-- A host write while a command runs is lost, and sets OVR (60_exceptions.md R189). -/
theorem step_of_lost_write {s t : State} {w : HostAddr × HostWord} (hw : nextWrite s = some w)
    (hb : s.status.busy = true) (hf : s.status.fault = false) (h : step s = .next t) :
    t = { s with status := s.status.overrun, script := t.script, schedule := t.schedule } := by
  have hm := nextMover_of_nextWrite hw
  obtain ⟨hm', -⟩ | ⟨-, a, v, rest, -, -, hwrite⟩ | ⟨-, hno, -⟩ | ⟨-, hno, -⟩ := step_inversion h
  · exact absurd hm' (by simp [hm])
  · obtain rfl := Host.Outcome.next.inj (hwrite.symm.trans (hostWrite_busy a v hf hb))
    rfl
  · exact absurd hw (by simp [hno])
  · exact absurd hw (by simp [hno])

section
variable {s t : State} (hbusy : s.status.busy = s.seq.running) (h : step s = .next t)
include hbusy h

theorem step_clears_ovr (hs : s.status.ovr = true) (ht : t.status.ovr = false) (hreset : resetNext s = false) :
    s.lookingAt ∧ ∃ v : HostWord, nextWrite s = some (Reg.cmd.addr, v) ∧ v.setWidth 8 = encode .clr := by
  obtain ⟨-, -, op, _, _, _, _, hseq, hexec⟩ | ⟨-, a, v, rest, hnw, -, hw⟩ | ⟨-, -, -, heq⟩ | ⟨-, -, hr, -⟩ :=
    step_inversion h
  · obtain ⟨⟨-, hnb⟩, -⟩ := exec_clears_ovr hexec hs ht
    exact absurd (hbusy.symm.trans hnb) (by simp [hseq, Seq.running])
  · obtain ⟨hlook, rfl, hv⟩ := hostWrite_clears_ovr hw hs ht
    exact ⟨hlook, v, hnw, hv⟩
  · have hstatus : t.status = s.status := by rw [heq]
    exact absurd ht (by simp [hstatus, hs])
  · exact absurd hr (by simp [hreset])

theorem step_raises_error (hs : s.status.err = false) (ht : t.status.err = true) :
    s.lookingAt ∧ (∃ v, nextWrite s = some (Reg.cmd.addr, v)) ∧ t.errcode ≠ .none ∧
      t = { s.rejectedWith t.errcode with script := t.script, schedule := t.schedule } := by
  obtain ⟨-, -, op, _, _, _, _, hseq, hexec⟩ | ⟨-, a, v, rest, hnw, -, hw⟩ | ⟨-, -, -, heq⟩ | ⟨-, -, -, rest, -, heq⟩ :=
    step_inversion h
  · obtain ⟨⟨-, hnb⟩, -⟩ := exec_raises_error hexec hs ht
    exact absurd (hbusy.symm.trans hnb) (by simp [hseq, Seq.running])
  · obtain ⟨rfl, hlook, e, he, rfl⟩ := hostWrite_raises_error hw hs ht
    exact ⟨hlook, ⟨v, hnw⟩, he, rfl⟩
  · have hstatus : t.status = s.status := by rw [heq]
    exact absurd ht (by simp [hstatus, hs])
  · obtain ⟨-, -, -, hstatus, -⟩ := State.applyReset_fields { s with schedule := s.takeTurn.schedule }
    have herr : t.status.err = false := heq ▸ congrArg Status.err hstatus
    exact absurd ht (by simp [herr])

end

/-- Settles O46: the gate loses the write, and the step that clears OVR is neither the core's nor a reset, so it is
CLR's. -/
theorem overrunIsSticky : Obligations.OverrunIsSticky := by
  refine ⟨fun s t a v hw hb hf h => step_of_lost_write hw hb hf h, fun s t hbusy h hs ht hreset => ?_⟩
  obtain ⟨⟨hf, hb⟩, v, hw, hv⟩ := step_clears_ovr hbusy h hs ht hreset
  exact ⟨hb, hf, v, hw, hv⟩

/-- Settles O31: the core's own turn and a reset raise no error, so the step is a host write that is rejected. -/
theorem errorOnlyAtAcceptance : Obligations.ErrorOnlyAtAcceptance := by
  intro s t hbusy h hs ht
  obtain ⟨⟨hf, hb⟩, hw, he, heq⟩ := step_raises_error hbusy h hs ht
  exact ⟨hw, hb, hf, he, heq⟩

end Sys2Proof.Machine
end

section
/-! A host write to CMD, and the halted core that ignores every write (60_exceptions.md R182 to R186, R190). -/

namespace Sys2Proof.Machine

/-! ### Rejection and acceptance -/

/-- Settles O21: a selector that names none is rejected behind the gate (R183). -/
theorem kschedRejectsOtherSelectors : Obligations.KschedRejectsOtherSelectors := by
  intro s sel hsel ⟨_, hb, hf⟩
  have hnone : Selector.ofField sel = none := by obtain rfl | rfl := hsel <;> rfl
  rw [exec_ksched_illegal hnone, State.gated_ready _ hf hb]
  rfl

/-- A command that passes its checks starts (30_encoding.md R70). -/
theorem exec_starts {i : Instr} {s : State} (hr : s.ready) (hw : i.wf = true) (hn : i ≠ .nop) (hc : i ≠ .clr)
    (hlen : i = .cbcd → lengthCheck s = .none) : exec i s = .next (startOf i s.openEpisode) := by
  obtain ⟨hseq, hb, hf⟩ := hr
  have accepted {check : State → ErrCode} (start advance : State → State) (hcheck : check s = .none) :
      runCommand i check start advance s = .next (start s.openEpisode) := by
    rw [runCommand_issue _ _ _ hseq hb hf, hcheck, State.accept_none]
  have unchecked := accepted (check := noCheck) (hcheck := rfl)
  cases i with
  | nop => exact absurd rfl hn
  | clr => exact absurd rfl hc
  | enc1 => rw [exec_enc1]; exact unchecked _ _
  | dec1 => rw [exec_dec1]; exact unchecked _ _
  | enc2 => rw [exec_enc2]; exact unchecked _ _
  | dec2 => rw [exec_dec2]; exact unchecked _ _
  | cbcd => exact accepted _ _ (hlen rfl)
  | ksched sel =>
    obtain ⟨q, hq⟩ := Option.isSome_iff_exists.1 ((Selector.ofField_legal sel).trans hw)
    rw [exec_ksched_legal hq]
    exact unchecked _ _
  | mitm => exact unchecked _ _
  | brute => exact unchecked _ _

theorem startOf_status {i : Instr} (hn : i ≠ .nop) (hc : i ≠ .clr) (s : State) :
    (startOf i s).status = s.status.started := by
  cases i with
  | nop => exact absurd rfl hn
  | clr => exact absurd rfl hc
  | _ => rfl

/-! ### The command word -/

/-- The words that R73 reserves with ILLEGAL_CMD. -/
def reservedWord (c : CmdWord) : Prop :=
  c.extractLsb' 6 2 ≠ 0#2 ∨ 10 ≤ (c.extractLsb' 0 4).toNat ∨ (c.extractLsb' 0 4 ≠ 5#4 ∧ c.extractLsb' 4 2 ≠ 0#2)

theorem encode_of_not_reserved {c : CmdWord} (h : ¬reservedWord c) : ∃ i, encode i = c := by
  have hok : ¬∃ why, decode c = .error why := mt (reservedWordsAreRejected c).1 h
  rw [decode_error_iff] at hok
  exact not_forall_not.1 hok

/-- The low 8 bits of the bus carry the fields of the command word (30_encoding.md R70). -/
theorem reservedWord_setWidth (v : HostWord) : reservedWord (v.setWidth 8) ↔
    (v.extractLsb' 6 2 ≠ 0#2 ∨ 10 ≤ (v.extractLsb' 0 4).toNat ∨
      (v.extractLsb' 0 4 ≠ 5#4 ∧ v.extractLsb' 4 2 ≠ 0#2)) := by
  simp only [reservedWord, BitVec.extractLsb'_setWidth_of_le (show 6 + 2 ≤ 8 by decide),
    BitVec.extractLsb'_setWidth_of_le (show 0 + 4 ≤ 8 by decide),
    BitVec.extractLsb'_setWidth_of_le (show 4 + 2 ≤ 8 by decide)]

/-- The two words of KSCHED without a legal selector aside, a command's word is the word of a well-formed command. -/
theorem wf_of_encode_ne {i : Instr} (h0 : encode i ≠ 0x05#8) (h3 : encode i ≠ 0x35#8) : i.wf = true := by
  cases i with
  | ksched sel => revert sel; decide
  | _ => rfl

/-! ### The write to CMD -/

section
variable {s : State} {v : HostWord}

/-- A reserved word written to CMD (R182). -/
theorem hostWrite_reserved (hb : s.status.busy = false) (hf : s.status.fault = false)
    (h : reservedWord (v.setWidth 8)) : hostWrite Reg.cmd.addr v s = .next (s.rejectedWith .illegalCmd) := by
  obtain ⟨why, hd⟩ := (reservedWordsAreRejected _).2 h
  rw [hostWrite, State.gated_ready _ hf hb]
  simp only [target_addr, issueWord, hd]
  rfl

/-- Any other word written to CMD is a command's, and acts as that command. -/
theorem hostWrite_encoded {i : Instr} (hb : s.status.busy = false) (hf : s.status.fault = false)
    (h : v.setWidth 8 = encode i) : hostWrite Reg.cmd.addr v s = exec i s :=
  hostWrite_command hb hf (h ▸ decode_encode i)

end

/-- Settles O29: the decoder rejects the word, and the episode that opens ends at once. -/
theorem reservedWordRaisesIllegalCmd : Obligations.ReservedWordRaisesIllegalCmd := by
  intro s v ⟨_, hb, hf⟩ h
  exact hostWrite_reserved hb hf ((reservedWord_setWidth v).2 h)

/-- Settles O30: the gate answers first, then the command that the word belongs to. -/
theorem commandWritePriority : Obligations.CommandWritePriority := by
  intro s v hidle c reserved
  refine ⟨State.gated_halted _, State.gated_busy _, fun hf hb => ?_⟩
  have hr : s.ready := ⟨hidle hb, hb, hf⟩
  have command {i : Instr} (hc : c = encode i) : hostWrite 0x000 v s = exec i s := hostWrite_encoded hb hf hc
  have ksched {sel : BitVec 2} (hsel : sel = 0#2 ∨ sel = 3#2) (hc : c = encode (.ksched sel)) :
      hostWrite 0x000 v s = .next (s.rejectedWith .badSelector) :=
    (command hc).trans (kschedRejectsOtherSelectors s sel hsel hr)
  obtain ⟨hragged, hlong, -⟩ := cbcdLengthCheck.1 s hr
  refine ⟨fun hc => ?_, fun hc => ?_, hostWrite_reserved hb hf, fun hc => ?_, fun hc hlen => ?_,
    fun hc hwhole hlen => ?_, fun hres h0 h9 h5 h35 hlen => ?_⟩
  · exact (command (i := .nop) hc).trans ((nopChangesNothing.2 s).2.2 hf hb)
  · exact (command (i := .clr) hc).trans ((clrClearsFlags s).2.2 hf hb)
  · exact hc.elim (ksched (.inl rfl)) (ksched (.inr rfl))
  · exact (command (i := .cbcd) hc).trans (hragged hlen)
  · exact (command (i := .cbcd) hc).trans (hlong hwhole hlen)
  · obtain ⟨i, hi⟩ := encode_of_not_reserved hres
    have hn : i ≠ .nop := by rintro rfl; exact h0 hi.symm
    have hclr : i ≠ .clr := by rintro rfl; exact h9 hi.symm
    have hw : i.wf = true := wf_of_encode_ne (hi ▸ h5) (hi ▸ h35)
    have hcheck : i = .cbcd → lengthCheck s = .none := by
      rintro rfl
      obtain ⟨hwhole, hfits⟩ := hlen hi.symm
      exact lengthCheck_of_legal hwhole hfits
    have hstatus := startOf_status hn hclr s.openEpisode
    obtain ⟨-, -, herrcode, -⟩ := startOf_keeps i s.openEpisode
    exact ⟨_, (command hi.symm).trans (exec_starts hr hw hn hclr hcheck), congrArg Status.busy hstatus,
      congrArg Status.err hstatus, herrcode⟩

/-! ### The halted core (R186) -/

theorem Status.word_halted : ({ Status.zero with fault := true } : Status).word = 0x10 := by decide

/-- After a failed self-check STATUS and ERRCODE alone are not 0 (10_state.md R40). -/
theorem readReg_cleared_halted (t : Tables) {r : Reg} (hs : r ≠ .status) (he : r ≠ .errcode) :
    (State.cleared t).raiseTableFault.readReg r = 0 := by
  cases r with
  | status => exact absurd rfl hs
  | errcode => exact absurd rfl he
  | p n => cases n <;> rfl
  | c n => cases n <;> rfl
  | _ => rfl

/-- Settles O50: the self-check fails, and the gate of a halted core ignores every write. -/
theorem illFormedTablesHaltTheCore : Obligations.IllFormedTablesHaltTheCore := by
  refine ⟨fun t hw => ?_, fun s a v rest hf hseq => ⟨fun hs => ?_, fun hs => ?_⟩⟩
  · have hreset : State.resetWith t = (State.cleared t).raiseTableFault := if_neg (by simp [hw])
    rw [hreset]
    exact ⟨Status.word_halted, rfl, rfl, fun r hs he => (hostRead_addr _ r).trans (readReg_cleared_halted t hs he)⟩
  · rw [step_of_host (nextMover_idle hseq), State.takeTurn_idle hseq, hostTurn_write hs]
    exact State.gated_halted _ hf
  · obtain ⟨_, hstep, rfl⟩ := hostReadsChangeNothing.1 s a rest (nextMover_idle hseq) hs
    rw [hstep, Seq.running_eq_false_iff.2 hseq]
    rfl

end Sys2Proof.Machine
end

section
/-! The key schedule (41_key_schedule.md R100, R102, R104): its two-stage form, the constant keys, its worked example
under STD, and the command KSCHED that stores its value. -/

namespace Sys2Proof.Machine

/-! ### The two rotations (R102) -/

/-- A half rotated by 1 and by a further 2 is rotated by `ROT(2) = 3`. -/
theorem rotl_one_rotl_two (v : BitVec 5) : rotl (rotl v 1) 2 = rotl v Selector.two.rotation :=
  rotl_rotl v 1 2

theorem keySchedule_one (t : Tables) (k : Key) :
    keySchedule t k .one = perm 8 t.pc2 (rotl (perm 5 t.pc1C k) 1 ++ rotl (perm 5 t.pc1D k) 1) := rfl

theorem keySchedule_two (t : Tables) (k : Key) : keySchedule t k .two =
    perm 8 t.pc2 (rotl (rotl (perm 5 t.pc1C k) 1) 2 ++ rotl (rotl (perm 5 t.pc1D k) 1) 2) := by
  rw [rotl_one_rotl_two, rotl_one_rotl_two, keySchedule]

/-- The worked example of R100 under STD. -/
theorem keySchedule_stdTables_example :
    keySchedule stdTables 0x282 .one = 0xA4 ∧ keySchedule stdTables 0x282 .two = 0x43 := by decide

/-- Settles O9: the rotations by 1 and by a further 2 add up to the rotation for selector 2. -/
theorem keyScheduleIsTwoStage : Obligations.KeyScheduleIsTwoStage :=
  ⟨fun t k => ⟨keySchedule_one t k, keySchedule_two t k⟩, keySchedule_stdTables_example⟩

/-! ### The constant keys (R100) -/

/-- What WF(TABLES) says of the tables of the key schedule. -/
theorem Tables.wf_keySchedule {t : Tables} (h : t.wf = true) :
    selectionOk 5 10 t.pc1C = true ∧ selectionOk 5 10 t.pc1D = true ∧ selectionOk 8 10 t.pc2 = true := by
  simp only [Tables.wf, Bool.and_eq_true] at h
  obtain ⟨⟨⟨⟨⟨⟨⟨⟨⟨hC, hD⟩, hpc2⟩, -⟩, -⟩, -⟩, -⟩, -⟩, -⟩, -⟩ := h
  exact ⟨hC, hD, hpc2⟩

/-- `perm_allOnes` for a table that is well formed as a selection table (10_state.md R36). -/
theorem perm_allOnes_of_selectionOk {m w : Nat} {T : List Nat} (h : selectionOk m w T = true) :
    perm m T (BitVec.allOnes w) = BitVec.allOnes m := by
  simp only [selectionOk, Bool.and_eq_true, beq_iff_eq, List.all_eq_true, decide_eq_true_eq] at h
  obtain ⟨rfl, hrange⟩ := h
  exact perm_allOnes hrange

theorem allOnes_append_allOnes_halves :
    (BitVec.allOnes 5 ++ BitVec.allOnes 5 : Key) = BitVec.allOnes 10 := by decide

theorem keySchedule_zero (t : Tables) (q : Selector) : keySchedule t 0#10 q = 0#8 := by
  rw [keySchedule, perm_zero, perm_zero, zero_rotl, BitVec.zero_append_zero, perm_zero]

theorem keySchedule_allOnes {t : Tables} (h : t.wf = true) (q : Selector) :
    keySchedule t (BitVec.allOnes 10) q = BitVec.allOnes 8 := by
  obtain ⟨hC, hD, hpc2⟩ := Tables.wf_keySchedule h
  rw [keySchedule, perm_allOnes_of_selectionOk hC, perm_allOnes_of_selectionOk hD, allOnes_rotl,
    allOnes_append_allOnes_halves, perm_allOnes_of_selectionOk hpc2]

/-- Settles O10: selecting from a constant vector, rotating it and joining two of one kind leave it constant. -/
theorem constantKeysGiveConstantRoundKeys : Obligations.ConstantKeysGiveConstantRoundKeys :=
  fun t q h => ⟨keySchedule_zero t q, keySchedule_allOnes h q⟩

/-! ### KSCHED (R104) -/

/-- KSCHED with a legal selector is a single-phase command whose result is a round key. -/
theorem exec_ksched_singlePhase {sel : BitVec 2} {q : Selector} (h : Selector.ofField sel = some q) (s : State) :
    exec (.ksched sel) s =
      singlePhase (.ksched sel) (fun s => .roundKey (keySchedule s.tables s.regs.key1 q)) s :=
  exec_ksched_legal h s

/-- Settles O20: KSCHED 1 and 2 are the single-phase commands whose result is `KS(KEY1, s)`. -/
theorem kschedStoresRoundKey : Obligations.KschedStoresRoundKey := by
  refine ⟨fun s sel hsel h => ?_, fun s sel q ph i j n hsel h => ?_, keySchedule_stdTables_example.2⟩
  · obtain ⟨q, hq⟩ : ∃ q, Selector.ofField sel = some q := by
      obtain rfl | rfl := hsel
      · exact ⟨.one, rfl⟩
      · exact ⟨.two, rfl⟩
    rw [exec_ksched_singlePhase hq, singlePhase_of_ready _ h]
  · have hq : Selector.ofField sel = some q := by obtain ⟨rfl, rfl⟩ | ⟨rfl, rfl⟩ := hsel <;> rfl
    rw [exec_ksched_singlePhase hq, singlePhase_of_executing _ h]
    rfl

/-- A legal KSCHED changes RKEY at most, and no memory. -/
theorem exec_ksched_legal_keeps {sel : BitVec 2} {q : Selector} {s t : State}
    (hq : Selector.ofField sel = some q) (h : exec (.ksched sel) s = .next t) :
    t.regs = { s.regs with rkey := t.regs.rkey } ∧ t.chain = s.chain ∧ t.ptOld = s.ptOld ∧
      SameBlocksBut none s t := by
  rw [exec_ksched_singlePhase hq] at h
  refine ⟨?_, singlePhase_keeps_hidden h⟩
  obtain hr | hr := singlePhase_regs h
  · rw [hr]
  · rw [hr, Latch.intoRegs]

/-- An illegal KSCHED is turned away or rejected: it changes flags and ERRCODE at most (60_exceptions.md R183). -/
theorem exec_ksched_illegal_keeps {sel : BitVec 2} {s t : State} (hq : Selector.ofField sel = none)
    (h : exec (.ksched sel) s = .next t) : t = { s with status := t.status, errcode := t.errcode } := by
  rw [exec_ksched_illegal hq] at h
  obtain ⟨-, rfl⟩ | ⟨-, -, rfl⟩ | ⟨-, -, h⟩ := State.gated_cases h
  · rfl
  · rfl
  · cases h
    rfl

/-- Settles O33: a legal selector's single-phase command latches a round key, which goes to RKEY; an illegal one's
rejection reaches no register and no block. -/
theorem kschedFrame : Obligations.KschedFrame := by
  intro sel s t h
  have hkeeps : t.regs = { s.regs with rkey := t.regs.rkey } ∧ t.chain = s.chain ∧ t.ptOld = s.ptOld ∧
      SameBlocksBut none s t := by
    cases hq : Selector.ofField sel with
    | some q => exact exec_ksched_legal_keeps hq h
    | none =>
      rw [exec_ksched_illegal_keeps hq h]
      exact ⟨rfl, rfl, rfl, .of_mem_eq (fun sp => by cases sp <;> rfl) rfl none⟩
  obtain ⟨hregs, hhidden⟩ := hkeeps
  exact ⟨hregs, exec_sameStickyFlags nofun nofun h, exec_sameSurroundings h, hhidden⟩

end Sys2Proof.Machine
end
